-- ==== Sys2Proof/Word.lean ====
section
/-! DEFINITION. The word types of the block (00_scope.md R10): every datum is an unsigned integer of 8 or
16 bits, a bit, or a string of those. Plain abbreviations, so that the library's lemmas about bit vectors apply. -/

namespace Sys2Proof

/-- `u8` of R10, R11: a function code, a device or address byte, an exception code, one byte of a byte string. -/
abbrev Byte := BitVec 8

/-- `u16` of R10, R11: a bank address, a count, a register, an MBAP field, the CRC. -/
abbrev Word := BitVec 16

end Sys2Proof
end

