-- ==== Sys2Proof/Syntax.lean ====
section
/-! DEFINITION. The syntax of the block: frames and requests (10_state.md R23, R24), sink ids (R41), handler ids (R35), the
ONE inductive `Instr` with a constructor for every row of spec/opcode_table.json, the ports an instruction's bytes arrive
on, and the moves of the host and of the agents (R20, R262) with the choices the spec leaves to them. -/

namespace Sys2Proof

/-- The record `RTU{address, function, data}` of R23. -/
structure RtuFrame where
  address  : Byte
  function : Byte
  data     : List Byte
deriving DecidableEq, Repr, Inhabited

/-- The record `TCP{txn, proto, device, function, data}` of R23. -/
structure TcpFrame where
  txn      : Word
  proto    : Word
  device   : Byte
  function : Byte
  data     : List Byte
deriving DecidableEq, Repr, Inhabited

/-- A frame (R23): its kind is part of the record and selects its serializer (R177). -/
inductive Frame
  | rtu (f : RtuFrame)
  | tcp (f : TcpFrame)
deriving DecidableEq, Repr, Inhabited

/-- The fields of a frame that the transport adds to the PDU: what a response keeps of its request (R179, R180). -/
inductive Header
  | rtu (address : Byte)
  | tcp (txn proto : Word) (device : Byte)
deriving DecidableEq, Repr, Inhabited

/-- A sink id (R41, decision D43): `RTU(p)` is the `p`-th port registered, `TCP(l, n)` the `n`-th connection accepted on
listener `l`. -/
inductive SinkId
  | rtu (p : Nat)
  | tcp (l n : Nat)
deriving DecidableEq, Repr, Inhabited

/-- A request `REQ{frame, sink}` (R24). -/
structure Request where
  frame : Frame
  sink  : SinkId
deriving DecidableEq, Repr, Inhabited

/-- A handler id (R35): the eight standard handlers and `CUSTOM(k)`. -/
inductive HandlerId
  | stdReadCoils
  | stdReadDiscreteInputs
  | stdReadHoldingRegisters
  | stdReadInputRegisters
  | stdWriteSingleCoil
  | stdWriteSingleRegister
  | stdWriteMultipleCoils
  | stdWriteMultipleRegisters
  | custom (k : Nat)
deriving DecidableEq, Repr, Inhabited

/-- The instructions: one constructor per row of spec/opcode_table.json, in the table's order.

The first nine are requests, named by the PDU's function byte (R93): the operands are the transport header of the frame and
its whole Data field, from which a handler assembles its own operands (R91), too short and too long Data included.
`exceptionResponse` is the response form EXC (R90). The others are the operations of the command port (R102). -/
inductive Instr
  | readCoils (hdr : Header) (data : List Byte)
  | readDiscreteInputs (hdr : Header) (data : List Byte)
  | readHoldingRegisters (hdr : Header) (data : List Byte)
  | readInputRegisters (hdr : Header) (data : List Byte)
  | writeSingleCoil (hdr : Header) (data : List Byte)
  | writeSingleRegister (hdr : Header) (data : List Byte)
  | writeMultipleCoils (hdr : Header) (data : List Byte)
  | writeMultipleRegisters (hdr : Header) (data : List Byte)
  | unknownFunction (function : Byte) (hdr : Header) (data : List Byte)
  | exceptionResponse (hdr : Header) (function : Byte) (e : Byte)
  | crcInit
  | crcUpdate (b : Byte)
  | crc16 (buf : List Byte)
  | crcCheck (adu : List Byte)
  | bitsPack (bits : List Bool)
  | bitsUnpack (bytes : List Byte) (n : Word)
  | rtuParse (b : List Byte)
  | rtuSerialize (f : RtuFrame)
  | tcpParse (b : List Byte)
  | tcpSerialize (f : TcpFrame)
  | excInject (f : Frame) (e : Byte)
  | respBuild (req : Frame) (payload : List Byte) (e : Byte)
  | fnLookup (fc : Byte)
  | handle (req : Request)
  | route (bytes : List Byte) (sink : SinkId)
  | fnSet (fc : Byte) (h : Option HandlerId)
  | close
  | enqueue (req : Request)
  | bankReadCoils (start count : Word)
  | bankReadDiscreteInputs (start count : Word)
  | bankReadHoldingRegisters (start count : Word)
  | bankReadInputRegisters (start count : Word)
  | bankWriteSingleCoil (addr : Word) (v : Bool)
  | bankWriteSingleRegister (addr v : Word)
  | bankWriteMultipleCoils (start : Word) (bits : List Bool)
  | bankWriteMultipleRegisters (start : Word) (words : List Word)
  | reservedOpsel (opsel : Byte)
deriving DecidableEq, Repr, Inhabited

/-- The eight function codes that have a standard handler (R19, R93). -/
inductive FnCode
  | readCoils | readDiscreteInputs | readHoldingRegisters | readInputRegisters
  | writeSingleCoil | writeSingleRegister | writeMultipleCoils | writeMultipleRegisters
deriving DecidableEq, Repr, Inhabited

/-- The 26 operations that have an operation selector code (R102). -/
inductive Opsel
  | crcInit | crcUpdate | crc16 | crcCheck | bitsPack | bitsUnpack
  | rtuParse | rtuSerialize | tcpParse | tcpSerialize | excInject | respBuild
  | fnLookup | handle | route | fnSet | close | enqueue
  | bankReadCoils | bankReadDiscreteInputs | bankReadHoldingRegisters | bankReadInputRegisters
  | bankWriteSingleCoil | bankWriteSingleRegister | bankWriteMultipleCoils | bankWriteMultipleRegisters
deriving DecidableEq, Repr, Inhabited

/-- Where an instruction's bytes arrive. The table has three code spaces and the same byte stands in several of them, so
the port, not the byte, says which space it belongs to: `pdu hdr` takes a request PDU `[function] ++ data` (R82) that came
with transport header `hdr`; `response hdr` a response PDU of format EXC (R90); `command` an operation selector and its
operands (R102). -/
inductive Port
  | pdu (hdr : Header)
  | response (hdr : Header)
  | command
deriving DecidableEq, Repr, Inhabited

/-- One move of the host or of an agent that is not an instruction of the opcode table, with the draw the spec leaves to it.
A move that its rule does not enable in the present state changes nothing: the agent waits. -/
inductive Move
  /-- HOST `listen_tcp(addr)` (R271); `ok` is the host's draw of success (R262). -/
  | listenTcp (ok : Bool)
  /-- HOST `listen_rtu(config)` (R271); `ok` as above. -/
  | listenRtu (ok : Bool)
  /-- HOST `start()` (R271). -/
  | start
  /-- The peer sends bytes on connection `TCP(l, n)` (R262). -/
  | send (l n : Nat) (bytes : List Byte)
  /-- The peer closes connection `TCP(l, n)`, or the host signals an I/O error on it (R262). -/
  | hangUp (l n : Nat)
  /-- ACC accept (R214): the host offers a connection on listener `l`. -/
  | accept (l : Nat)
  /-- ACC errors (R216): the host reports an accept error on `l`; its class is the host's draw. -/
  | acceptError (l : Nat) (permanent : Bool)
  /-- ACC start (R215). -/
  | accStart (l : Nat)
  /-- ACC leaves `A_PAUSE` (R216 (a)). -/
  | accResume (l : Nat)
  /-- DISP start (R191). -/
  | dispStart
  /-- DISP select, request arm (R192 (a)). -/
  | dispRequest
  /-- DISP select, close arm (R192 (b)). -/
  | dispClose
  /-- DISP write, the ROUTE step (R194). -/
  | dispWrite
  /-- TCPR header read of `k` bytes (R211). -/
  | tcpHeader (l n k : Nat)
  /-- TCPR body read of `k` bytes (R212). -/
  | tcpBody (l n k : Nat)
  /-- TCPR parse (R213). -/
  | tcpParse (l n : Nat)
  /-- TCPR close check, or a read deadline that expires (R221 (a), R244). -/
  | tcpCloseCheck (l n : Nat)
  /-- TCPR end of input (R221 (b)). -/
  | tcpEnd (l n : Nat)
  /-- Enqueue, push arm (R217 (a), R225). -/
  | push (sink : SinkId)
  /-- Enqueue, abandon arm (R217 (b), R225). -/
  | abandon (sink : SinkId)
  /-- Reader wait abandoned on close (R219). -/
  | leaveWait (sink : SinkId)
  /-- RTUR start (R223 (a)). -/
  | rtuStart (p : Nat)
  /-- The close of a port whose reader never started (R228; log entry 22). -/
  | rtuUnstarted (p : Nat)
  /-- RTUR check (R223 (b)). -/
  | rtuCheck (p : Nat)
  /-- RTUR read (R222): the serial line returns `chunk`. -/
  | serialRead (p : Nat) (chunk : List Byte)
  /-- RTUR port error (R224). -/
  | serialError (p : Nat)
  /-- Completion of `shutdown()` (R276 (2)). -/
  | shutdownComplete
deriving DecidableEq, Repr, Inhabited

/-- What one step consumes: an instruction's bytes on a port, or a move. -/
inductive Input
  | message (port : Port) (bytes : List Byte)
  | move (m : Move)
deriving DecidableEq, Repr, Inhabited

end Sys2Proof
end

