-- ==== Sys2Proof/Config.lean ====
section
/-! DEFINITION. What an implementation fixes: the parameters of 00_scope.md R9, the constants the spec states, the attached
register bank as data (R39, R162), and the FREE VALUES: constants without a body, of which nothing can be proved. -/

namespace Sys2Proof

/-- `TCP_LENGTH_CHECK` of R9 (decision D6). -/
inductive TcpLengthCheck
  | strict
  | tolerant
deriving DecidableEq, Repr, Inhabited

/-- `COUNT_LIMITS` of R9 (decision D10). -/
inductive CountLimits
  | enforceUpper
  | none
deriving DecidableEq, Repr, Inhabited

/-- `EMPTY_READ_FORM` of R9 (decision D14). -/
inductive EmptyReadForm
  | byteCountZero
  | empty
deriving DecidableEq, Repr, Inhabited

/-- The parameters of R9 that choose a behaviour. They are fixed for the life of the block (R38): `State` carries them so that
every statement holds for every configuration, and no step writes them. -/
structure Params where
  /-- `CHANNEL_DEPTH`: capacity of the request queue (decision D4). -/
  channelDepth   : Nat
  tcpLengthCheck : TcpLengthCheck
  countLimits    : CountLimits
  emptyReadForm  : EmptyReadForm
  /-- `MAX_CONNECTIONS`: `none` is unbounded (decision D45). -/
  maxConnections : Option Nat
deriving DecidableEq, Repr, Inhabited

/-- The reference configuration: the defaults of R9. -/
def Params.reference : Params where
  channelDepth   := 64
  tcpLengthCheck := .strict
  countLimits    := .enforceUpper
  emptyReadForm  := .byteCountZero
  maxConnections := none

/-- `CHANNEL_DEPTH` is an integer of at least 1 (R9). -/
abbrev Params.wf (p : Params) : Prop := 1 ≤ p.channelDepth

namespace Config

/-- `ADDR_SPACE_SIZE` (R9): entries in each bank address space. -/
abbrev addrSpaceSize : Nat := 65536
/-- `RTU_READ_MAX` (R9): bytes one serial read returns at most. -/
abbrev rtuReadMax : Nat := 512
/-- `MAX_READ_BITS` (R9). -/
abbrev maxReadBits : Nat := 2000
/-- `MAX_READ_REGS` (R9). -/
abbrev maxReadRegs : Nat := 125
/-- The longest Data a TCP response can carry: `len(data) + 2` must fit the 16-bit Length field (R175). -/
abbrev maxTcpData : Nat := 65533

end Config

/-- One address space of the bank: a list of (address, entry) pairs in ONE canonical form, addresses strictly rising and no
entry equal to what an unlisted address reads as (`Memory.wf`). -/
abbrev Memory (α : Type) := List (Nat × α)

/-- The four arrays of the default bank (R39), every entry of 1 or 16 bits. -/
structure Arrays where
  coils            : Memory Bool
  discreteInputs   : Memory Bool
  holdingRegisters : Memory Word
  inputRegisters   : Memory Word
deriving DecidableEq, Repr, Inhabited

/-- A multiple write of a custom bank that no other write has followed: what the read-after-write property of R161 speaks of. -/
inductive LastWrite
  | coils (start : Word) (bits : List Bool)
  | registers (start : Word) (words : List Word)
deriving DecidableEq, Repr, Inhabited

/-- The attached register bank (`BANK` of R9): the default bank with its arrays, or a custom bank with a state of its own
(R162), coded as a number. `last` is the model's own: the multiple write, if any, that the contract of R150 and R161 binds the
bank's coming reads to (log entry 9). -/
inductive Bank
  | default (arrays : Arrays)
  | custom (state : Nat) (last : Option LastWrite)
deriving DecidableEq, Repr, Inhabited

/-- The default bank with every entry 0 (R39, decision D23). -/
def Bank.zero : Bank := .default ⟨[], [], [], []⟩

/-- What a bit-space read of a bank returns, with the bank's state after the call (R150, R68). -/
structure BitsRead (σ : Type) where
  bits : List Bool
  exc  : Byte
  bank : σ
deriving DecidableEq, Repr, Inhabited

/-- What a word-space read of a bank returns, with the bank's state after the call (R150, R68). -/
structure WordsRead (σ : Type) where
  words : List Word
  exc   : Byte
  bank  : σ
deriving DecidableEq, Repr, Inhabited

/-- What a write to a bank returns, with the bank's state after the call (R150). -/
structure Written (σ : Type) where
  exc  : Byte
  bank : σ
deriving DecidableEq, Repr, Inhabited

/-- The eight capability calls of a bank (R150). -/
inductive BankCall
  | readCoils (start count : Word)
  | readDiscreteInputs (start count : Word)
  | readHoldingRegisters (start count : Word)
  | readInputRegisters (start count : Word)
  | writeSingleCoil (addr : Word) (v : Bool)
  | writeSingleRegister (addr v : Word)
  | writeMultipleCoils (start : Word) (bits : List Bool)
  | writeMultipleRegisters (start : Word) (words : List Word)
deriving DecidableEq, Repr, Inhabited

/-- What a custom handler answers (R120, R121): payload, exception code, and the capability calls through which alone it
changes the bank, in order. -/
structure CustomResult where
  payload : List Byte
  exc     : Byte
  calls   : List BankCall
deriving DecidableEq, Repr, Inhabited

namespace Config

/-- FREE VALUE (R121): the custom handler `CUSTOM(k)`, a total function of bank and frame about which nothing else is known. -/
opaque customHandler : Nat → Bank → Frame → CustomResult

/-- FREE VALUES (R162): the eight functions of a custom bank on its own state. What the contract of R150 and R161 fixes of an answer
is not taken from them (Machine/BankOps.lean), so they may be any functions; everything else of a custom bank is theirs. -/
opaque customReadCoils : Nat → Word → Word → BitsRead Nat
/-- FREE VALUE, see `customReadCoils`. -/
opaque customReadDiscreteInputs : Nat → Word → Word → BitsRead Nat
/-- FREE VALUE, see `customReadCoils`. -/
opaque customReadHoldingRegisters : Nat → Word → Word → WordsRead Nat
/-- FREE VALUE, see `customReadCoils`. -/
opaque customReadInputRegisters : Nat → Word → Word → WordsRead Nat
/-- FREE VALUE, see `customReadCoils`. -/
opaque customWriteSingleCoil : Nat → Word → Bool → Written Nat
/-- FREE VALUE, see `customReadCoils`. -/
opaque customWriteSingleRegister : Nat → Word → Word → Written Nat
/-- FREE VALUE, see `customReadCoils`. -/
opaque customWriteMultipleCoils : Nat → Word → List Bool → Written Nat
/-- FREE VALUE, see `customReadCoils`. -/
opaque customWriteMultipleRegisters : Nat → Word → List Word → Written Nat

/-- FREE VALUE (R88, R130): the word `w[i]` of a register read's answer when a custom bank returned too few words to have one, by what
a handler is a function of (R120), the handler itself, the bank and the request's Data, and by `i` (log entry 27). -/
opaque absentWord : HandlerId → Bank → List Byte → Nat → Word

/-- FREE VALUE (R16, R249): the input the next step consumes when the state lists none, by the draw counter. -/
opaque freeInput : Nat → Input

/-- FREE VALUE (R217, decision D20): whether an ENQUEUE command pushes when both arms are enabled, by the draw counter. -/
opaque freeChoice : Nat → Bool

end Config

end Sys2Proof
end

