-- ==== Sys2Proof/Machine/Bytes.lean ====
section
/-! DEFINITION. Byte order and byte strings (00_scope.md R12, 20_memory.md R60 to R62): the one place where a 16-bit value
is cut into bytes or built from them. -/

namespace Sys2Proof

/-- `v[15:8]`. -/
def hiByte (v : Word) : Byte := v.extractLsb' 8 8

/-- `v[7:0]`. -/
def loByte (v : Word) : Byte := v.extractLsb' 0 8

/-- `be16(v)` of R12: high byte first. -/
def be16 (v : Word) : List Byte := [hiByte v, loByte v]

/-- `le16(v)` of R12: low byte first. -/
def le16 (v : Word) : List Byte := [loByte v, hiByte v]

/-- `zext_16(hi) << 8 | zext_16(lo)` of R12: the 16-bit value with the given high and low bytes. -/
def ofHiLo (hi lo : Byte) : Word := (hi.setWidth 16 <<< 8) ||| lo.setWidth 16

/-- `b[i]` of R12. Callers check the length first, as the rules do. -/
def byteAt (b : List Byte) (i : Nat) : Byte := b.getD i 0#8

/-- `BE16(b, i)` of R12. -/
def beWord (b : List Byte) (i : Nat) : Word := ofHiLo (byteAt b i) (byteAt b (i + 1))

/-- `LE16(b, i)` of R12. -/
def leWord (b : List Byte) (i : Nat) : Word := ofHiLo (byteAt b (i + 1)) (byteAt b i)

/-- `b[i..j]` of R12: the bytes at indices `i` up to but not including `j`. -/
def slice (b : List Byte) (i j : Nat) : List Byte := (b.take j).drop i

/-- A string of 16-bit values on the wire, each big-endian (R61). -/
def beWords : List Word → List Byte
  | []      => []
  | w :: ws => be16 w ++ beWords ws

/-- `ceil(n/8)` of R11 and R92. -/
def ceilDiv8 (n : Nat) : Nat := (n + 7) / 8

/-- A number below `2^32` as four bytes, high byte first: an operand field of the command port. -/
def be32 (n : Nat) : List Byte :=
  [BitVec.ofNat 8 (n / 2 ^ 24), BitVec.ofNat 8 (n / 2 ^ 16), BitVec.ofNat 8 (n / 2 ^ 8), BitVec.ofNat 8 n]

/-- The number four bytes hold, high byte first. -/
def ofBytes32 (b3 b2 b1 b0 : Byte) : Nat :=
  b3.toNat * 2 ^ 24 + b2.toNat * 2 ^ 16 + b1.toNat * 2 ^ 8 + b0.toNat

end Sys2Proof
end

