-- ==== Sys2Proof/Machine/Codes.lean ====
section
/-! DEFINITION. The code tables: the function codes of R93 and the operation selector codes of R102, each row once, and the
lookups that decoding, encoding and well-formedness share. -/

namespace Sys2Proof

/-- The function code of each standard handler (R93). -/
def FnCode.code : FnCode → Byte
  | .readCoils              => 0x01#8
  | .readDiscreteInputs     => 0x02#8
  | .readHoldingRegisters   => 0x03#8
  | .readInputRegisters     => 0x04#8
  | .writeSingleCoil        => 0x05#8
  | .writeSingleRegister    => 0x06#8
  | .writeMultipleCoils     => 0x0F#8
  | .writeMultipleRegisters => 0x10#8

/-- The rows of R93's table that name a function code. -/
def fnCodes : List FnCode :=
  [.readCoils, .readDiscreteInputs, .readHoldingRegisters, .readInputRegisters,
   .writeSingleCoil, .writeSingleRegister, .writeMultipleCoils, .writeMultipleRegisters]

/-- The operation selector codes (R102). -/
def Opsel.code : Opsel → Byte
  | .crcInit                    => 0x01#8
  | .crcUpdate                  => 0x02#8
  | .crc16                      => 0x03#8
  | .crcCheck                   => 0x04#8
  | .bitsPack                   => 0x10#8
  | .bitsUnpack                 => 0x11#8
  | .rtuParse                   => 0x20#8
  | .rtuSerialize               => 0x21#8
  | .tcpParse                   => 0x22#8
  | .tcpSerialize               => 0x23#8
  | .excInject                  => 0x24#8
  | .respBuild                  => 0x25#8
  | .fnLookup                   => 0x30#8
  | .handle                     => 0x31#8
  | .route                      => 0x32#8
  | .fnSet                      => 0x33#8
  | .close                      => 0x34#8
  | .enqueue                    => 0x35#8
  | .bankReadCoils              => 0x40#8
  | .bankReadDiscreteInputs     => 0x41#8
  | .bankReadHoldingRegisters   => 0x42#8
  | .bankReadInputRegisters     => 0x43#8
  | .bankWriteSingleCoil        => 0x44#8
  | .bankWriteSingleRegister    => 0x45#8
  | .bankWriteMultipleCoils     => 0x46#8
  | .bankWriteMultipleRegisters => 0x47#8

/-- The rows of R102's table. -/
def opsels : List Opsel :=
  [.crcInit, .crcUpdate, .crc16, .crcCheck, .bitsPack, .bitsUnpack,
   .rtuParse, .rtuSerialize, .tcpParse, .tcpSerialize, .excInject, .respBuild,
   .fnLookup, .handle, .route, .fnSet, .close, .enqueue,
   .bankReadCoils, .bankReadDiscreteInputs, .bankReadHoldingRegisters, .bankReadInputRegisters,
   .bankWriteSingleCoil, .bankWriteSingleRegister, .bankWriteMultipleCoils, .bankWriteMultipleRegisters]

/-- The standard function code a function byte names (R93), or none (R94). -/
def fnOfCode (b : Byte) : Option FnCode := fnCodes.find? (fun c => c.code == b)

/-- The operation a selector byte names (R102), or none (R103). -/
def opOfCode (b : Byte) : Option Opsel := opsels.find? (fun c => c.code == b)

/-- The numbers that an operand field of four bytes carries. -/
abbrev maxOperand : Nat := 2 ^ 32

end Sys2Proof
end

