-- ==== Sys2Proof/WellFormed.lean ====
section
/-! DEFINITION. The checks an instruction must pass to have an encoding: the function byte of a request row belongs to that
row and no other (R93, R94), an exception response has bit 7 set (R90), a reserved selector is none of R102's, and the numbers
and lengths that the command port's operand fields carry fit them. -/

namespace Sys2Proof

/-- A sink id whose numbers fit their operand fields. -/
def SinkId.wf : SinkId → Bool
  | .rtu p   => decide (p < maxOperand)
  | .tcp l n => decide (l < maxOperand) && decide (n < maxOperand)

/-- A handler id whose number fits its operand field. -/
def HandlerId.wf : HandlerId → Bool
  | .custom k => decide (k < maxOperand)
  | _         => true

/-- The well-formed instructions: those that have an encoding. A request operand whose frame is not of its sink id's kind has one too,
the model's choice, since R24 gives no answer for it (log entry 26). -/
def Instr.wf : Instr → Bool
  | .readCoils _ _              => true
  | .readDiscreteInputs _ _     => true
  | .readHoldingRegisters _ _   => true
  | .readInputRegisters _ _     => true
  | .writeSingleCoil _ _        => true
  | .writeSingleRegister _ _    => true
  | .writeMultipleCoils _ _     => true
  | .writeMultipleRegisters _ _ => true
  | .unknownFunction fc _ _     => (fnOfCode fc).isNone
  | .exceptionResponse _ fc _   => fc.getLsbD 7
  | .crcInit                    => true
  | .crcUpdate _                => true
  | .crc16 _                    => true
  | .crcCheck _                 => true
  | .bitsPack _                 => true
  | .bitsUnpack _ _             => true
  | .rtuParse _                 => true
  | .rtuSerialize _             => true
  | .tcpParse _                 => true
  | .tcpSerialize _             => true
  | .excInject _ _              => true
  | .respBuild _ payload _      => decide (payload.length < maxOperand)
  | .fnLookup _                 => true
  | .handle req                 => req.sink.wf
  | .route _ sink               => sink.wf
  | .fnSet _ none               => true
  | .fnSet _ (some h)           => h.wf
  | .close                      => true
  | .enqueue req                => req.sink.wf
  | .bankReadCoils _ _              => true
  | .bankReadDiscreteInputs _ _     => true
  | .bankReadHoldingRegisters _ _   => true
  | .bankReadInputRegisters _ _     => true
  | .bankWriteSingleCoil _ _        => true
  | .bankWriteSingleRegister _ _    => true
  | .bankWriteMultipleCoils _ _     => true
  | .bankWriteMultipleRegisters _ _ => true
  | .reservedOpsel op           => (opOfCode op).isNone

end Sys2Proof
end

