-- ==== Sys2Proof/Decode.lean ====
section
/-! DEFINITION. The decoder, total on any bytes on any port and rejecting by name, and after it the encoder.

Requests: the PDU is `[function] ++ data` (R82), and the whole function byte selects the row (R93); every byte that names no
standard function is an unknown-function request (R94, R95). Exception responses: `[function | 0x80, e]` (R90).
Commands: the operation selector of R102 and then the operands; the spec gives operands no bytes, so the layout of the operand
fields is the model's (DESIGN CHOICE, log entry 11): a u8 is one byte, a u16 is big-endian, a number is four bytes high byte
first, a bit is a byte 00 or 01, and a string of any length stands last and takes the bytes that are left. -/

namespace Sys2Proof

/-- Why bytes are no instruction. -/
inductive DecodeError
  /-- The message holds no byte. -/
  | noCode
  /-- The message ends inside an operand. -/
  | shortOperand
  /-- Bytes are left after the last operand. -/
  | trailingBytes
  /-- A bit operand is neither 00 nor 01. -/
  | badBit
  /-- A string of words has an odd number of bytes. -/
  | oddWords
  /-- The kind byte of a frame or sink is neither 00 nor 01. -/
  | badKind
  /-- The handler byte names no handler. -/
  | badHandler
  /-- A response on the response port has bit 7 of its function byte clear: no exception response (R90). -/
  | notAnException
deriving DecidableEq, Repr, Inhabited

/-- A decoding result: an instruction or the name of what is wrong. -/
abbrev Decoded (α : Type) := Except DecodeError α

namespace Decode

/-- A u8 operand, and the bytes after it. -/
def byte : List Byte → Decoded (Byte × List Byte)
  | b :: rest => .ok (b, rest)
  | []        => .error .shortOperand

/-- A u16 operand, and the bytes after it. -/
def word : List Byte → Decoded (Word × List Byte)
  | hi :: lo :: rest => .ok (ofHiLo hi lo, rest)
  | _                => .error .shortOperand

/-- A number operand, and the bytes after it. -/
def number : List Byte → Decoded (Nat × List Byte)
  | b3 :: b2 :: b1 :: b0 :: rest => .ok (ofBytes32 b3 b2 b1 b0, rest)
  | _                            => .error .shortOperand

/-- No operand is left. -/
def done (i : Instr) : List Byte → Decoded Instr
  | []     => .ok i
  | _ :: _ => .error .trailingBytes

/-- One bit from its byte. -/
def bit (b : Byte) : Decoded Bool :=
  if b = 0#8 then .ok false else if b = 1#8 then .ok true else .error .badBit

/-- A bit string: the bytes that are left, one a bit. -/
def bits : List Byte → Decoded (List Bool)
  | []        => .ok []
  | b :: rest => (bit b).bind fun v => (bits rest).map (v :: ·)

/-- A string of words: the bytes that are left, two a word. -/
def words : List Byte → Decoded (List Word)
  | []               => .ok []
  | [_]              => .error .oddWords
  | hi :: lo :: rest => (words rest).map (ofHiLo hi lo :: ·)

/-- The fields of an RTU frame; its Data is the bytes that are left. -/
def rtuFrame : List Byte → Decoded RtuFrame
  | address :: function :: data => .ok ⟨address, function, data⟩
  | _                           => .error .shortOperand

/-- The fields of a TCP frame; its Data is the bytes that are left. -/
def tcpFrame : List Byte → Decoded TcpFrame
  | t1 :: t0 :: p1 :: p0 :: device :: function :: data =>
      .ok ⟨ofHiLo t1 t0, ofHiLo p1 p0, device, function, data⟩
  | _ => .error .shortOperand

/-- A frame: its kind byte, 00 for RTU and 01 for TCP, then its fields. -/
def frame (b : List Byte) : Decoded Frame :=
  (byte b).bind fun (k, rest) =>
    if k = 0#8 then (rtuFrame rest).map .rtu
    else if k = 1#8 then (tcpFrame rest).map .tcp
    else .error .badKind

/-- A sink id, and the bytes after it: kind byte 00 and the port number, or 01, the listener and the connection number. -/
def sink (b : List Byte) : Decoded (SinkId × List Byte) :=
  (byte b).bind fun (k, rest) =>
    if k = 0#8 then (number rest).map fun (p, rest) => (.rtu p, rest)
    else if k = 1#8 then
      (number rest).bind fun (l, rest) => (number rest).map fun (n, rest) => (.tcp l n, rest)
    else .error .badKind

/-- A request: its sink id, then its frame, whose kind is not compared with the sink id's (log entry 26). -/
def request (b : List Byte) : Decoded Request :=
  (sink b).bind fun (s, rest) => (frame rest).map fun f => ⟨f, s⟩

/-- The standard handler a handler byte names: the function code's own handler number, 1 to 8 in the order of R35. -/
def stdHandler (b : Byte) : Option HandlerId :=
  match b.toNat with
  | 1 => some .stdReadCoils
  | 2 => some .stdReadDiscreteInputs
  | 3 => some .stdReadHoldingRegisters
  | 4 => some .stdReadInputRegisters
  | 5 => some .stdWriteSingleCoil
  | 6 => some .stdWriteSingleRegister
  | 7 => some .stdWriteMultipleCoils
  | 8 => some .stdWriteMultipleRegisters
  | _ => none

/-- A handler id or `none`, the last operand: byte 00 is `none`, 01 to 08 the standard handlers, 09 `CUSTOM(k)` with its number. -/
def handler (fc : Byte) (b : List Byte) : Decoded Instr :=
  (byte b).bind fun (h, rest) =>
    if h = 0#8 then done (.fnSet fc none) rest
    else if h = 9#8 then (number rest).bind fun (k, rest) => done (.fnSet fc (some (.custom k))) rest
    else match stdHandler h with
      | some id => done (.fnSet fc (some id)) rest
      | none    => .error .badHandler

/-- The two u16 operands of a bank read. -/
def startCount (mk : Word → Word → Instr) (b : List Byte) : Decoded Instr :=
  (word b).bind fun (start, rest) => (word rest).bind fun (count, rest) => done (mk start count) rest

/-- A request PDU with its transport header: the row its function byte selects (R93), or unknown function (R94). -/
def pdu (hdr : Header) : List Byte → Decoded Instr
  | []         => .error .noCode
  | fc :: data =>
    match fnOfCode fc with
    | some .readCoils              => .ok (.readCoils hdr data)
    | some .readDiscreteInputs     => .ok (.readDiscreteInputs hdr data)
    | some .readHoldingRegisters   => .ok (.readHoldingRegisters hdr data)
    | some .readInputRegisters     => .ok (.readInputRegisters hdr data)
    | some .writeSingleCoil        => .ok (.writeSingleCoil hdr data)
    | some .writeSingleRegister    => .ok (.writeSingleRegister hdr data)
    | some .writeMultipleCoils     => .ok (.writeMultipleCoils hdr data)
    | some .writeMultipleRegisters => .ok (.writeMultipleRegisters hdr data)
    | none                         => .ok (.unknownFunction fc hdr data)

/-- A response PDU of format EXC (R90). -/
def response (hdr : Header) : List Byte → Decoded Instr
  | []         => .error .noCode
  | fc :: rest =>
    if fc.getLsbD 7 then (byte rest).bind fun (e, rest) => done (.exceptionResponse hdr fc e) rest
    else .error .notAnException

/-- The operands of one operation (R102). -/
def operands (op : Opsel) (b : List Byte) : Decoded Instr :=
  match op with
  | .crcInit      => done .crcInit b
  | .crcUpdate    => (byte b).bind fun (x, rest) => done (.crcUpdate x) rest
  | .crc16        => .ok (.crc16 b)
  | .crcCheck     => .ok (.crcCheck b)
  | .bitsPack     => (bits b).map .bitsPack
  | .bitsUnpack   => (word b).map fun (n, rest) => .bitsUnpack rest n
  | .rtuParse     => .ok (.rtuParse b)
  | .rtuSerialize => (rtuFrame b).map .rtuSerialize
  | .tcpParse     => .ok (.tcpParse b)
  | .tcpSerialize => (tcpFrame b).map .tcpSerialize
  | .excInject    => (byte b).bind fun (e, rest) => (frame rest).map fun f => .excInject f e
  | .respBuild    =>
      (byte b).bind fun (e, rest) => (number rest).bind fun (len, rest) =>
        if len ≤ rest.length then
          (frame (rest.drop len)).map fun f => .respBuild f (rest.take len) e
        else .error .shortOperand
  | .fnLookup     => (byte b).bind fun (fc, rest) => done (.fnLookup fc) rest
  | .handle       => (request b).map .handle
  | .route        => (sink b).map fun (s, rest) => .route rest s
  | .fnSet        => (byte b).bind fun (fc, rest) => handler fc rest
  | .close        => done .close b
  | .enqueue      => (request b).map .enqueue
  | .bankReadCoils              => startCount .bankReadCoils b
  | .bankReadDiscreteInputs     => startCount .bankReadDiscreteInputs b
  | .bankReadHoldingRegisters   => startCount .bankReadHoldingRegisters b
  | .bankReadInputRegisters     => startCount .bankReadInputRegisters b
  | .bankWriteSingleCoil        =>
      (word b).bind fun (addr, rest) => (byte rest).bind fun (x, rest) => (bit x).bind fun v =>
        done (.bankWriteSingleCoil addr v) rest
  | .bankWriteSingleRegister    =>
      (word b).bind fun (addr, rest) => (word rest).bind fun (v, rest) => done (.bankWriteSingleRegister addr v) rest
  | .bankWriteMultipleCoils     => (word b).bind fun (start, rest) => (bits rest).map (.bankWriteMultipleCoils start)
  | .bankWriteMultipleRegisters => (word b).bind fun (start, rest) => (words rest).map (.bankWriteMultipleRegisters start)

/-- A command: an operation selector and its operands (R102); a reserved selector names no operation, whatever follows it (R103). -/
def command : List Byte → Decoded Instr
  | []        => .error .noCode
  | op :: rest =>
    match opOfCode op with
    | some o => operands o rest
    | none   => .ok (.reservedOpsel op)

end Decode

/-- The decoder: the instruction that a message's bytes on a port are, or the name of what is wrong with them. -/
def decode : Port → List Byte → Decoded Instr
  | .pdu hdr,      b => Decode.pdu hdr b
  | .response hdr, b => Decode.response hdr b
  | .command,      b => Decode.command b

namespace Encode

/-- The byte of a bit operand. -/
def bit (v : Bool) : Byte := if v then 1#8 else 0#8

/-- The fields of an RTU frame. -/
def rtuFrame (f : RtuFrame) : List Byte := f.address :: f.function :: f.data

/-- The fields of a TCP frame. -/
def tcpFrame (f : TcpFrame) : List Byte := be16 f.txn ++ be16 f.proto ++ f.device :: f.function :: f.data

/-- A frame with its kind byte. -/
def frame : Frame → List Byte
  | .rtu f => 0#8 :: rtuFrame f
  | .tcp f => 1#8 :: tcpFrame f

/-- A sink id with its kind byte. -/
def sink : SinkId → List Byte
  | .rtu p   => 0#8 :: be32 p
  | .tcp l n => 1#8 :: (be32 l ++ be32 n)

/-- A request. -/
def request (r : Request) : List Byte := sink r.sink ++ frame r.frame

/-- A handler id or `none`. -/
def handler : Option HandlerId → List Byte
  | none                            => [0#8]
  | some .stdReadCoils              => [1#8]
  | some .stdReadDiscreteInputs     => [2#8]
  | some .stdReadHoldingRegisters   => [3#8]
  | some .stdReadInputRegisters     => [4#8]
  | some .stdWriteSingleCoil        => [5#8]
  | some .stdWriteSingleRegister    => [6#8]
  | some .stdWriteMultipleCoils     => [7#8]
  | some .stdWriteMultipleRegisters => [8#8]
  | some (.custom k)                => 9#8 :: be32 k

end Encode

/-- The encoder: the port and the bytes of an instruction. -/
def encode : Instr → Port × List Byte
  | .readCoils hdr data              => (.pdu hdr, FnCode.readCoils.code :: data)
  | .readDiscreteInputs hdr data     => (.pdu hdr, FnCode.readDiscreteInputs.code :: data)
  | .readHoldingRegisters hdr data   => (.pdu hdr, FnCode.readHoldingRegisters.code :: data)
  | .readInputRegisters hdr data     => (.pdu hdr, FnCode.readInputRegisters.code :: data)
  | .writeSingleCoil hdr data        => (.pdu hdr, FnCode.writeSingleCoil.code :: data)
  | .writeSingleRegister hdr data    => (.pdu hdr, FnCode.writeSingleRegister.code :: data)
  | .writeMultipleCoils hdr data     => (.pdu hdr, FnCode.writeMultipleCoils.code :: data)
  | .writeMultipleRegisters hdr data => (.pdu hdr, FnCode.writeMultipleRegisters.code :: data)
  | .unknownFunction fc hdr data     => (.pdu hdr, fc :: data)
  | .exceptionResponse hdr fc e      => (.response hdr, [fc, e])
  | .crcInit                => (.command, [Opsel.crcInit.code])
  | .crcUpdate b            => (.command, [Opsel.crcUpdate.code, b])
  | .crc16 buf              => (.command, Opsel.crc16.code :: buf)
  | .crcCheck adu           => (.command, Opsel.crcCheck.code :: adu)
  | .bitsPack bits          => (.command, Opsel.bitsPack.code :: bits.map Encode.bit)
  | .bitsUnpack bytes n     => (.command, Opsel.bitsUnpack.code :: (be16 n ++ bytes))
  | .rtuParse b             => (.command, Opsel.rtuParse.code :: b)
  | .rtuSerialize f         => (.command, Opsel.rtuSerialize.code :: Encode.rtuFrame f)
  | .tcpParse b             => (.command, Opsel.tcpParse.code :: b)
  | .tcpSerialize f         => (.command, Opsel.tcpSerialize.code :: Encode.tcpFrame f)
  | .excInject f e          => (.command, Opsel.excInject.code :: e :: Encode.frame f)
  | .respBuild req payload e =>
      (.command, Opsel.respBuild.code :: e :: (be32 payload.length ++ (payload ++ Encode.frame req)))
  | .fnLookup fc            => (.command, [Opsel.fnLookup.code, fc])
  | .handle req             => (.command, Opsel.handle.code :: Encode.request req)
  | .route bytes sink       => (.command, Opsel.route.code :: (Encode.sink sink ++ bytes))
  | .fnSet fc h             => (.command, Opsel.fnSet.code :: fc :: Encode.handler h)
  | .close                  => (.command, [Opsel.close.code])
  | .enqueue req            => (.command, Opsel.enqueue.code :: Encode.request req)
  | .bankReadCoils start count            => (.command, Opsel.bankReadCoils.code :: (be16 start ++ be16 count))
  | .bankReadDiscreteInputs start count   => (.command, Opsel.bankReadDiscreteInputs.code :: (be16 start ++ be16 count))
  | .bankReadHoldingRegisters start count => (.command, Opsel.bankReadHoldingRegisters.code :: (be16 start ++ be16 count))
  | .bankReadInputRegisters start count   => (.command, Opsel.bankReadInputRegisters.code :: (be16 start ++ be16 count))
  | .bankWriteSingleCoil addr v           => (.command, Opsel.bankWriteSingleCoil.code :: (be16 addr ++ [Encode.bit v]))
  | .bankWriteSingleRegister addr v       => (.command, Opsel.bankWriteSingleRegister.code :: (be16 addr ++ be16 v))
  | .bankWriteMultipleCoils start bits =>
      (.command, Opsel.bankWriteMultipleCoils.code :: (be16 start ++ bits.map Encode.bit))
  | .bankWriteMultipleRegisters start words =>
      (.command, Opsel.bankWriteMultipleRegisters.code :: (be16 start ++ beWords words))
  | .reservedOpsel op       => (.command, [op])

/-- The fewest operand bytes of a request of each standard function (R83 to R86, R100). -/
def FnCode.operandBytes : FnCode → Nat
  | .writeMultipleCoils | .writeMultipleRegisters => 5
  | _ => 4

/-- The fewest operand bytes of each operation in the layout above. -/
def Opsel.operandBytes : Opsel → Nat
  | .crcInit | .crc16 | .crcCheck | .bitsPack | .rtuParse | .tcpParse | .close => 0
  | .crcUpdate | .fnLookup => 1
  | .bitsUnpack | .rtuSerialize | .fnSet | .bankWriteMultipleCoils | .bankWriteMultipleRegisters => 2
  | .bankWriteSingleCoil => 3
  | .excInject | .bankReadCoils | .bankReadDiscreteInputs | .bankReadHoldingRegisters | .bankReadInputRegisters
  | .bankWriteSingleRegister => 4
  | .route => 5
  | .tcpSerialize => 6
  | .respBuild | .handle | .enqueue => 8

/-- The port of a code byte that comes with no port, and the fewest operand bytes of its instruction there: the FIRST row of
spec/opcode_table.json, in the table's order, that matches the byte, the two rows of mask 00 coming last. -/
def tableRow (code : Byte) : Port × Nat :=
  match fnOfCode code with
  | some c => (.pdu (.rtu 0#8), c.operandBytes)
  | none =>
    if code.getLsbD 7 then (.response (.rtu 0#8), 1)
    else match opOfCode code with
      | some o => (.command, o.operandBytes)
      | none   => (.pdu (.rtu 0#8), 0)

/-- The bytes of a table word: `n` bytes of `w`, bits 7:0 first. -/
def wordBytes : Nat → Nat → List Byte
  | 0,     _ => []
  | n + 1, w => BitVec.ofNat 8 w :: wordBytes n (w / 256)

/-- The message a table word of `nbits` bits stands for: its bytes, then operand bytes of zeros up to the fewest its
instruction has. -/
def tableMessage (nbits w : Nat) : Port × List Byte :=
  let b := wordBytes (nbits / 8) w
  let row := tableRow (byteAt b 0)
  (row.1, b ++ List.replicate (row.2 + 1 - b.length) 0#8)

/-- The instruction the decoder reads from a word of the opcode table. -/
def decodeTableWord (nbits w : Nat) : Option Instr :=
  (decode (tableMessage nbits w).1 (tableMessage nbits w).2).toOption

end Sys2Proof
end

