-- ==== Sys2Proof/Machine/State.lean ====
section
/-! DEFINITION. The state of the block: the tuple of 10_state.md R21, and five fields of the model's own (the parameters of R9,
which no step writes; whether `crc` has been written since reset, R112; the command port's results, R102; the inputs listed for
the coming steps; the draw counter). State is plain data. With it the ways a step can stop, and the state after reset. -/

namespace Sys2Proof.Machine

/-- The faults of the block (R258): what the fault register can hold. -/
inductive BlockFault
  /-- `CRC_UNINITIALISED` (R255): CRC_UPDATE before any CRC_INIT or CRC16 since reset. -/
  | crcUninitialised
  /-- `TCP_RESPONSE_TOO_LONG` (R256): a TCP frame whose Data is longer than 65533 bytes is serialized. -/
  | tcpResponseTooLong
deriving DecidableEq, Repr, Inhabited

/-- How a step stops with a fault. -/
inductive Fault
  /-- Raised by `step` in a state whose fault register holds a name: a faulted block takes no further step (R29, R254).
  Safe: the spec says the same of the hardware. -/
  | halted (f : BlockFault)
deriving DecidableEq, Repr, Inhabited

/-- The lifecycle calls (R271). -/
inductive LifecycleCall
  | listenTcp | listenRtu | fnSet | start | shutdown
deriving DecidableEq, Repr, Inhabited

/-- How a step is refused. -/
inductive Refusal
  /-- Answered by `exec` for an instruction that has no meaning yet. Safe: it stops where the hardware goes on. -/
  | notModelled (mnemonic : String)
  /-- Answered for a command with a reserved operation selector (R103, decision D7): it has no meaning and no step.
  Safe: the spec refuses it. -/
  | reservedOpsel (opsel : Byte)
  /-- Answered for a lifecycle call in a state other than the one its row allows (R271, decision D35): it has no move.
  Safe: the spec refuses it. -/
  | wrongLifecycle (call : LifecycleCall)
  /-- Answered by `step` for bytes that the decoder rejects. Safe: the spec gives such bytes no meaning. -/
  | undecodable (why : DecodeError)
deriving DecidableEq, Repr, Inhabited

/-- The lifecycle state `life` (R34). -/
inductive Life
  | config | running | shutdown | stopped
deriving DecidableEq, Repr, Inhabited

/-- The dispatcher's control state `dstate` (R31). -/
inductive DispState
  | off
  | idle
  | write (bytes : List Byte) (sink : SinkId)
  | exit
deriving DecidableEq, Repr, Inhabited

/-- An accept unit's control state `accstate[l]` (R33). -/
inductive AccState
  | off | run | pause | closed | error
deriving DecidableEq, Repr, Inhabited

/-- A TCP connection reader's control state with its buffers (R32, R42). -/
inductive TcpReader
  /-- `T_HDR(hbuf)`. -/
  | hdr (hbuf : List Byte)
  /-- `T_BODY(hdr, need, bbuf)`. -/
  | body (hdr : List Byte) (need : Nat) (bbuf : List Byte)
  /-- `T_ENQ(req)`. -/
  | enq (req : Request)
  /-- `T_WAIT(req)`. -/
  | wait (req : Request)
  /-- `T_CLOSED`. -/
  | closed
deriving DecidableEq, Repr, Inhabited

/-- An RTU port reader's control state (R32). -/
inductive RtuReader
  /-- `U_OFF`. -/
  | off
  /-- `U_CHECK`. -/
  | check
  /-- `U_BLOCK`. -/
  | block
  /-- `U_ENQ(req)`. -/
  | enq (req : Request)
  /-- `U_WAIT(req)`. -/
  | wait (req : Request)
  /-- `U_CLOSED`. -/
  | closed
deriving DecidableEq, Repr, Inhabited

/-- One TCP source, `SRC[TCP(l, n)]` (R41), with its reader's control state: `open(s)`, `out(s)`, `in(s)`, `eof(s)`. -/
structure Conn where
  rstate : TcpReader
  isOpen : Bool
  out    : List (List Byte)
  inp    : List Byte
  eof    : Bool
deriving DecidableEq, Repr, Inhabited

/-- One RTU source, `SRC[RTU(p)]` (R41), with its reader's control state. It has no input state. -/
structure SerialPort where
  rstate : RtuReader
  isOpen : Bool
  out    : List (List Byte)
deriving DecidableEq, Repr, Inhabited

/-- One listener: its accept unit (R33) and the connections accepted on it, in order (R41). -/
structure Listener where
  acc   : AccState
  conns : List Conn
deriving DecidableEq, Repr, Inhabited

/-- A parse outcome's failure (R28 (a)). -/
inductive DecodeFailure
  | short | crcMismatch | lengthMismatch
deriving DecidableEq, Repr, Inhabited

/-- A parse outcome (R13, R28 (a)). -/
inductive ParseOutcome
  | ok (f : Frame)
  | err (reason : DecodeFailure)
deriving DecidableEq, Repr, Inhabited

/-- What the command port shows after a command (R102, column Results): the status values of R28, which the block itself does
not hold between steps. -/
inductive Result
  /-- Nothing: no command yet, or one without a result. -/
  | none
  /-- The command was not enabled: it waits and nothing was done. -/
  | waiting
  /-- CRC16. -/
  | crc (v : Word)
  /-- CRC_CHECK: `crc_ok`. -/
  | crcOk (ok : Bool)
  /-- BITS_PACK, RTU_SERIALIZE, TCP_SERIALIZE. -/
  | bytes (b : List Byte)
  /-- BITS_UNPACK: `Ok(bits)`, or `none` for `Err(SHORT)`. -/
  | unpacked (bits : Option (List Bool))
  /-- RTU_PARSE, TCP_PARSE. -/
  | parsed (outcome : ParseOutcome)
  /-- EXC_INJECT, RESP_BUILD, and the exception response form. -/
  | frame (f : Frame)
  /-- FN_LOOKUP. -/
  | slot (h : Option HandlerId)
  /-- A request instruction: the handler's payload and exception code, and the response frame. -/
  | handled (payload : List Byte) (exc : Byte) (response : Frame)
  /-- HANDLE: the response bytes and the sink id. -/
  | response (bytes : List Byte) (sink : SinkId)
  /-- A bank read of a bit space. -/
  | bankBits (bits : List Bool) (exc : Byte)
  /-- A bank read of a word space. -/
  | bankWords (words : List Word) (exc : Byte)
  /-- A bank write. -/
  | bankExc (exc : Byte)
deriving DecidableEq, Repr, Inhabited

/-- The state (R21). -/
structure State where
  /-- The CRC register (R22). -/
  crc       : Word
  /-- Whether CRC_INIT or CRC16 has written `crc` since reset: the condition of R112. -/
  crcLoaded : Bool
  /-- The function table `FT` (R35). -/
  ft        : Vector (Option HandlerId) 256
  /-- The register bank `BANK` (R39, R162). -/
  bank      : Bank
  /-- The request queue `Q`, head first (R40). -/
  queue     : List Request
  /-- The close signal (R27). -/
  close     : Bool
  /-- The lifecycle state (R34). -/
  life      : Life
  /-- The dispatcher's control state (R31). -/
  dstate    : DispState
  /-- The listeners in registration order, with `accstate[l]`, `rstate[TCP(l, n)]` and `SRC[TCP(l, n)]`. -/
  listeners : List Listener
  /-- The serial ports in registration order, with `rstate[RTU(p)]` and `SRC[RTU(p)]`. -/
  ports     : List SerialPort
  /-- The fault register (R29). -/
  fault     : Option BlockFault
  /-- MODEL'S OWN: the parameters of R9, fixed for the life of the block. -/
  cfg       : Params
  /-- MODEL'S OWN: the command port's results. -/
  result    : Result
  /-- MODEL'S OWN: the inputs the coming steps consume, the next one first. -/
  inputs    : List Input
  /-- MODEL'S OWN: the draw counter that numbers the free values. -/
  draws     : Nat
deriving DecidableEq, Repr

/-- The reset value of the function table (R37). -/
def resetTable : Vector (Option HandlerId) 256 :=
  (((((((((Vector.replicate 256 (none : Option HandlerId)).set 1 (some .stdReadCoils)).set 2
    (some .stdReadDiscreteInputs)).set 3 (some .stdReadHoldingRegisters)).set 4
    (some .stdReadInputRegisters)).set 5 (some .stdWriteSingleCoil)).set 6
    (some .stdWriteSingleRegister)).set 15 (some .stdWriteMultipleCoils)).set 16
    (some .stdWriteMultipleRegisters))

/-- The block right after its construction with given parameters and a given bank (R44, R270). -/
def State.construct (cfg : Params) (bank : Bank) : State where
  crc       := 0#16
  crcLoaded := false
  ft        := resetTable
  bank      := bank
  queue     := []
  close     := false
  life      := .config
  dstate    := .off
  listeners := []
  ports     := []
  fault     := none
  cfg       := cfg
  result    := .none
  inputs    := []
  draws     := 0

/-- The reset state: the construction with the reference configuration and the default bank all zero (R44, R270). -/
def State.reset : State := State.construct .reference .zero

end Sys2Proof.Machine
end

