-- ==== Sys2Proof/Machine/Ops.lean ====
section
/-! DEFINITION. The named operations over the state: entries of a bank space (Memory), the updates of the state's fields,
sources by sink id, raising a fault (R254), and what stands in the place of taking an exception and returning from it:
the exception response (R178, R179, R250) and the release of the waiting reader (R194, R251). -/

namespace Sys2Proof

namespace Memory

/-- What an address with no entry reads as: 0, a bit false, the reset contents of R39. -/
def unlisted (α : Type) [Inhabited α] : α := default

/-- The entry at an address. -/
def read {α : Type} [Inhabited α] : Memory α → Nat → α
  | [],             _ => unlisted α
  | (a, v) :: rest, x => if a = x then v else read rest x

/-- The space with one entry written, in the canonical form. -/
def write {α : Type} [Inhabited α] [DecidableEq α] : Memory α → Nat → α → Memory α
  | [], x, v => if v = unlisted α then [] else [(x, v)]
  | (a, w) :: rest, x, v =>
    if x < a then (if v = unlisted α then (a, w) :: rest else (x, v) :: (a, w) :: rest)
    else if x = a then (if v = unlisted α then rest else (a, v) :: rest)
    else (a, w) :: write rest x v

/-- The entries `start`, `start + 1`, …: `count` of them. -/
def readMany {α : Type} [Inhabited α] (m : Memory α) : Nat → Nat → List α
  | _,     0         => []
  | start, count + 1 => read m start :: readMany m (start + 1) count

/-- The space with consecutive entries written from `start` on. -/
def writeMany {α : Type} [Inhabited α] [DecidableEq α] : Memory α → Nat → List α → Memory α
  | m, _,     []      => m
  | m, start, v :: vs => writeMany (write m start v) (start + 1) vs

/-- The canonical form from a lower bound on: addresses strictly rising and inside the space, no entry equal to what an
unlisted address reads as. -/
def wfFrom {α : Type} [Inhabited α] [DecidableEq α] : Nat → Memory α → Bool
  | _,  []             => true
  | lo, (a, v) :: rest =>
    decide (lo ≤ a) && decide (a < Config.addrSpaceSize) && decide (v ≠ unlisted α) && wfFrom (a + 1) rest

/-- The canonical form of one bank space. -/
def wf {α : Type} [Inhabited α] [DecidableEq α] (m : Memory α) : Bool := wfFrom 0 m

end Memory

/-- The canonical form of all four spaces of the default bank; a custom bank has no space here. -/
def Bank.wf : Bank → Bool
  | .default a => Memory.wf a.coils && Memory.wf a.discreteInputs && Memory.wf a.holdingRegisters && Memory.wf a.inputRegisters
  | .custom _ _ => true

/-! Frames: the fields every kind has, and the response rules. -/

/-- The function byte of a frame. -/
def Frame.function : Frame → Byte
  | .rtu f => f.function
  | .tcp f => f.function

/-- The Data of a frame. -/
def Frame.data : Frame → List Byte
  | .rtu f => f.data
  | .tcp f => f.data

/-- What the transport added to the PDU. -/
def Frame.header : Frame → Header
  | .rtu f => .rtu f.address
  | .tcp f => .tcp f.txn f.proto f.device

/-- The frame with a given header, function byte and Data. -/
def Header.frame (function : Byte) (data : List Byte) : Header → Frame
  | .rtu address          => .rtu ⟨address, function, data⟩
  | .tcp txn proto device => .tcp ⟨txn, proto, device, function, data⟩

/-- The exception code names of R240 that the standard block raises. -/
abbrev excSuccess : Byte := 0#8
/-- IllegalFunction (R240). -/
abbrev excIllegalFunction : Byte := 1#8
/-- IllegalDataAddress (R240). -/
abbrev excIllegalDataAddress : Byte := 2#8
/-- IllegalDataValue (R240). -/
abbrev excIllegalDataValue : Byte := 3#8

/-- EXC_INJECT (R178): `f with function <- f.function | 0x80, data <- [e]`. -/
def injectException (f : Frame) (e : Byte) : Frame := f.header.frame (f.function ||| 0x80#8) [e]

/-- RESP_BUILD (R179): a copy of the request with its Data replaced, and exception entry (R250) when `e != 0`: the payload is
discarded and EXC_INJECT applied. Nothing is saved, no mode changes and no vector is read. -/
def buildResponse (req : Frame) (payload : List Byte) (e : Byte) : Frame :=
  let r := req.header.frame req.function payload
  if e ≠ excSuccess then injectException r e else r

namespace Machine

/-! Updates of single fields of the state. -/

/-- `fault <- name` and nothing else (R254): raising a fault. -/
def State.raise (f : BlockFault) (s : State) : State := { s with fault := some f }

/-- A value loaded into the CRC register (R111, R112). -/
def State.loadCrc (c : Word) (s : State) : State := { s with crc := c, crcLoaded := true }

/-- `FT[fc] <- h` (R197). -/
def State.setSlot (fc : Byte) (h : Option HandlerId) (s : State) : State := { s with ft := s.ft.set fc.toNat h fc.isLt }

/-- `FT[fc]` (R196): every one of the 256 codes indexes a slot. -/
def State.slot (s : State) (fc : Byte) : Option HandlerId := s.ft[fc.toNat]'fc.isLt

/-- `BANK <- bank'` (R193). -/
def State.setBank (b : Bank) (s : State) : State := { s with bank := b }

/-- `Q <- q`. -/
def State.setQueue (q : List Request) (s : State) : State := { s with queue := q }

/-- `dstate <- d`. -/
def State.setDispatcher (d : DispState) (s : State) : State := { s with dstate := d }

/-- `life <- l`. -/
def State.setLife (l : Life) (s : State) : State := { s with life := l }

/-- `close <- 1`. -/
def State.setClose (s : State) : State := { s with close := true }

/-- The listeners with their accept units and connections. -/
def State.setListeners (ls : List Listener) (s : State) : State := { s with listeners := ls }

/-- The serial ports. -/
def State.setPorts (ps : List SerialPort) (s : State) : State := { s with ports := ps }

/-- The command port shows a result. -/
def State.report (r : Result) (s : State) : State := { s with result := r }

/-- The inputs still to come. -/
def State.setInputs (is : List Input) (s : State) : State := { s with inputs := is }

/-- One more free value has been drawn. -/
def State.countDraw (s : State) : State := { s with draws := s.draws + 1 }

/-! Sources by their ids (R41). -/

/-- Listener `l`. -/
def State.listener? (s : State) (l : Nat) : Option Listener := s.listeners[l]?

/-- Connection `TCP(l, n)`. -/
def State.conn? (s : State) (l n : Nat) : Option Conn := (s.listener? l).bind fun li => li.conns[n]?

/-- Port `RTU(p)`. -/
def State.port? (s : State) (p : Nat) : Option SerialPort := s.ports[p]?

/-- Listener `l` replaced. -/
def State.setListener (l : Nat) (li : Listener) (s : State) : State := s.setListeners (s.listeners.set l li)

/-- Connection `TCP(l, n)` replaced. -/
def State.setConn (l n : Nat) (c : Conn) (s : State) : State :=
  match s.listener? l with
  | some li => s.setListener l { li with conns := li.conns.set n c }
  | none    => s

/-- Port `RTU(p)` replaced. -/
def State.setPort (p : Nat) (sp : SerialPort) (s : State) : State := s.setPorts (s.ports.set p sp)

/-- A source that a listener or port has just created (R41): `open(s) = 1`, `out(s) = []`, `in(s) = []`, `eof(s) = 0`. -/
def Conn.fresh : Conn := ⟨.hdr [], true, [], [], false⟩

/-- The source of a registered port (R41, R271): `open(s) = 1`, `out(s) = []`, reader in `U_OFF`. -/
def SerialPort.fresh : SerialPort := ⟨.off, true, []⟩

/-- `teardown(s)` (R220): the reader is closed, the write side is closed, and the bytes left are dropped. -/
def Conn.teardown (c : Conn) : Conn := { c with rstate := .closed, isOpen := false, inp := [] }

/-- `port_close(s)` (R223 (c)). -/
def SerialPort.shut (sp : SerialPort) : SerialPort := { sp with rstate := .closed, isOpen := false }

/-- A response written to a source: one whole write when the source is open, discarded when it is closed (R194, decision D46). -/
def Conn.deliver (bytes : List Byte) (c : Conn) : Conn := if c.isOpen then { c with out := c.out ++ [bytes] } else c

/-- As `Conn.deliver`, for a port. -/
def SerialPort.deliver (bytes : List Byte) (sp : SerialPort) : SerialPort :=
  if sp.isOpen then { sp with out := sp.out ++ [bytes] } else sp

/-- The release of a waiting TCP reader (R194): `T_WAIT(_)` becomes `T_HDR([])`. -/
def Conn.release (c : Conn) : Conn :=
  match c.rstate with
  | .wait _ => { c with rstate := .hdr [] }
  | _       => c

/-- The release of a waiting RTU reader (R194): `U_WAIT(_)` becomes `U_CHECK`. -/
def SerialPort.release (sp : SerialPort) : SerialPort :=
  match sp.rstate with
  | .wait _ => { sp with rstate := .check }
  | _       => sp

/-- A response written to the source of a sink id, and its reader released: what ROUTE does to the sources (R194). It is also
the return from a request that ended in an exception (R251): there is nothing else to restore. -/
def State.writeBack (bytes : List Byte) (sink : SinkId) (s : State) : State :=
  match sink with
  | .tcp l n => match s.conn? l n with
    | some c => s.setConn l n (c.deliver bytes).release
    | none   => s
  | .rtu p => match s.port? p with
    | some sp => s.setPort p (sp.deliver bytes).release
    | none    => s

/-- The request a reader holds in `T_ENQ(req)` or `U_ENQ(req)`, if its source is there and it is in that state. -/
def State.parsedRequest (s : State) : SinkId → Option Request
  | .tcp l n => match s.conn? l n with
    | some ⟨.enq req, _, _, _, _⟩ => some req
    | _ => none
  | .rtu p => match s.port? p with
    | some ⟨.enq req, _, _⟩ => some req
    | _ => none

/-- The request a reader waits for in `T_WAIT(req)` or `U_WAIT(req)`, if its source is there and it is in that state. -/
def State.awaited (s : State) : SinkId → Option Request
  | .tcp l n => match s.conn? l n with
    | some ⟨.wait req, _, _, _, _⟩ => some req
    | _ => none
  | .rtu p => match s.port? p with
    | some ⟨.wait req, _, _⟩ => some req
    | _ => none

/-- The reader of a source goes to `T_WAIT(req)` or `U_WAIT(req)`. -/
def State.startWait (sink : SinkId) (req : Request) (s : State) : State :=
  match sink with
  | .tcp l n => match s.conn? l n with
    | some c => s.setConn l n { c with rstate := .wait req }
    | none   => s
  | .rtu p => match s.port? p with
    | some sp => s.setPort p { sp with rstate := .wait req }
    | none    => s

/-- The source of a sink id is closed by its reader: `teardown(s)` or `port_close(s)` (R217, R219, R225). -/
def State.closeSource (sink : SinkId) (s : State) : State :=
  match sink with
  | .tcp l n => match s.conn? l n with
    | some c => s.setConn l n c.teardown
    | none   => s
  | .rtu p => match s.port? p with
    | some sp => s.setPort p sp.shut
    | none    => s

/-- A step of one connection: `none` where the connection is not there or the step is not enabled. -/
def State.onConn (l n : Nat) (f : Conn → Option Conn) (s : State) : Option State :=
  (s.conn? l n).bind fun c => (f c).map fun c' => s.setConn l n c'

/-- A step of one port: `none` where the port is not there or the step is not enabled. -/
def State.onPort (p : Nat) (f : SerialPort → Option SerialPort) (s : State) : Option State :=
  (s.port? p).bind fun sp => (f sp).map fun sp' => s.setPort p sp'

/-- A step of one accept unit: `none` where the listener is not there or the step is not enabled. -/
def State.onAcc (l : Nat) (f : AccState → Option AccState) (s : State) : Option State :=
  (s.listener? l).bind fun li => (f li.acc).map fun a => s.setListener l { li with acc := a }

/-- An outcome of the block. -/
abbrev Out := Host.Outcome State Fault Refusal

/-- A move that is not enabled changes nothing: the agent waits. -/
def orWait (s : State) : Option State → Out
  | some s' => .next s'
  | none    => .next s

end Machine

end Sys2Proof
end

