-- ==== Sys2Proof/Machine/Operands.lean ====
section
/-! DEFINITION. Operand assembly (30_encoding.md R91, R92): how a handler takes its operands from a request's Data field. None is
signed and none is scaled. A handler checks the length of Data first (R125). -/

namespace Sys2Proof.Machine

/-- `register = BE16(data, 0)`. -/
def opRegister (data : List Byte) : Word := beWord data 0

/-- `count = BE16(data, 2)`. -/
def opCount (data : List Byte) : Word := beWord data 2

/-- `value = BE16(data, 2)` (format WS). -/
def opValue (data : List Byte) : Word := beWord data 2

/-- `coil_value = (value != 0)` (R91, R132). -/
def opCoilValue (data : List Byte) : Bool := opValue data != 0#16

/-- `byte_count = data[4]` (formats WMC, WMR): carried, never checked (decision D15). -/
def opByteCount (data : List Byte) : Byte := byteAt data 4

/-- `payload = data[5..m]` (formats WMC, WMR). -/
def opPayload (data : List Byte) : List Byte := data.drop 5

/-- `w[i] = BE16(payload, 2·i)` for `0 <= i < n` (R91). -/
def opWords (payload : List Byte) (n : Nat) : List Word := (List.range n).map fun i => beWord payload (2 * i)

/-- `request.data[0..4]`, the response Data of format ECHO (R89). -/
def opEcho (data : List Byte) : List Byte := data.take 4

end Sys2Proof.Machine
end

