-- ==== Sys2Proof/Machine/Flags.lean ====
section
/-! DEFINITION. The status values of the block (10_state.md R28). No operation has a carry, overflow, zero or sign flag; what an
operation reports is a parse outcome, the bit `crc_ok`, or an exception code. Here are the checks that decide a standard handler's
exception code (R125 to R127, R134, R135), each as the condition under which it FAILS, and their order (R136). -/

namespace Sys2Proof.Machine

/-- R125: Data is shorter than the function's format needs. -/
def dataTooShort (needed : Nat) (data : List Byte) : Bool := decide (data.length < needed)

/-- R127: a read's count is above the limit, when limits are enforced. -/
def countAboveLimit (p : Params) (limit : Nat) (count : Word) : Bool :=
  match p.countLimits with
  | .enforceUpper => decide (limit < count.toNat)
  | .none         => false

/-- R126, R71: `zext_32(start) + zext_32(count) > 65536`. The sum of two 16-bit values does not wrap in 32 bits. -/
def rangePassesEnd (start : Word) (count : Nat) : Bool := decide (Config.addrSpaceSize < start.toNat + count)

/-- R134: a write-multiple-coils payload has fewer than `ceil(count/8)` bytes. -/
def coilsPayloadShort (count : Word) (payload : List Byte) : Bool := decide (payload.length < ceilDiv8 count.toNat)

/-- R135: a write-multiple-registers payload has not exactly `2·count` bytes, computed without wrap. -/
def registersPayloadWrong (count : Word) (payload : List Byte) : Bool := payload.length != 2 * count.toNat

/-- R136, checks (1) to (3) of a read, in order: the exception code of the first that fails, or Success. -/
def readCheck (p : Params) (limit : Nat) (data : List Byte) : Byte :=
  if dataTooShort 4 data then excIllegalDataValue
  else if countAboveLimit p limit (opCount data) then excIllegalDataValue
  else if rangePassesEnd (opRegister data) (opCount data).toNat then excIllegalDataAddress
  else excSuccess

/-- R136, check (1) of a single write; the address check always passes (R126). -/
def singleWriteCheck (data : List Byte) : Byte :=
  if dataTooShort 4 data then excIllegalDataValue else excSuccess

/-- R136, checks (1), (3) and (4) of write-multiple-coils, in order. -/
def coilsWriteCheck (data : List Byte) : Byte :=
  if dataTooShort 5 data then excIllegalDataValue
  else if rangePassesEnd (opRegister data) (opCount data).toNat then excIllegalDataAddress
  else if coilsPayloadShort (opCount data) (opPayload data) then excIllegalDataValue
  else excSuccess

/-- R136, checks (1), (3) and (4) of write-multiple-registers, in order. -/
def registersWriteCheck (data : List Byte) : Byte :=
  if dataTooShort 5 data then excIllegalDataValue
  else if rangePassesEnd (opRegister data) (opCount data).toNat then excIllegalDataAddress
  else if registersPayloadWrong (opCount data) (opPayload data) then excIllegalDataValue
  else excSuccess

end Sys2Proof.Machine
end

