-- ==== Sys2Proof/Machine/BankOps.lean ====
section
/-! DEFINITION. The register bank (42_register_bank.md): the eight capability calls of R150, on the default bank as R151 to R158 give
them and on a custom bank through its own functions within the contract (R162), and the eight commands that make one call each. -/

namespace Sys2Proof

open Sys2Proof.Machine

/-- A read of one bit space of the default bank (R151, R152): the entries, or IllegalDataAddress when the range passes 65535. -/
def readBitSpace (m : Memory Bool) (start count : Word) : List Bool × Byte :=
  if rangePassesEnd start count.toNat then ([], excIllegalDataAddress)
  else (Memory.readMany m start.toNat count.toNat, excSuccess)

/-- A read of one word space of the default bank (R153, R154). -/
def readWordSpace (m : Memory Word) (start count : Word) : List Word × Byte :=
  if rangePassesEnd start count.toNat then ([], excIllegalDataAddress)
  else (Memory.readMany m start.toNat count.toNat, excSuccess)

/-! A custom bank and its contract (R150, R162). Whatever its own functions are, a read of `(s, 0)` answers `[]` with Success, and a
read of exactly the range of a multiple write, with no write between, answers what was written (R161). Every other answer, every
exception code of a write included, is the bank's own. So the banks modelled are those that meet the contract, and all of them
(log entry 9). -/

/-- What a custom bank answers a read of `count` entries: the contract's answer where it fixes one, else its own. -/
def contractAnswer {α : Type} (fixed : Option (List α)) (count : Word) (own : List α × Byte) : List α × Byte :=
  if count = 0#16 then ([], excSuccess)
  else match fixed with
    | some values => (values, excSuccess)
    | none        => own

/-- The answer that R161 fixes for a read of coils. -/
def LastWrite.coilsAt (last : Option LastWrite) (start count : Word) : Option (List Bool) :=
  match last with
  | some (.coils a bits) => if a = start ∧ bits.length = count.toNat then some bits else none
  | _                    => none

/-- The answer that R161 fixes for a read of holding registers. -/
def LastWrite.registersAt (last : Option LastWrite) (start count : Word) : Option (List Word) :=
  match last with
  | some (.registers a words) => if a = start ∧ words.length = count.toNat then some words else none
  | _                         => none

/-- The write that the coming reads are bound to: a multiple write whose range ends inside the space (R161). -/
def LastWrite.ofRange (start : Word) (length : Nat) (w : LastWrite) : Option LastWrite :=
  if rangePassesEnd start length then none else some w

/-- A bit read of a custom bank. -/
def customBits (last : Option LastWrite) (fixed : Option (List Bool)) (count : Word) (r : BitsRead Nat) : BitsRead Bank :=
  ⟨(contractAnswer fixed count (r.bits, r.exc)).1, (contractAnswer fixed count (r.bits, r.exc)).2, .custom r.bank last⟩

/-- A word read of a custom bank. -/
def customWords (last : Option LastWrite) (fixed : Option (List Word)) (count : Word) (r : WordsRead Nat) : WordsRead Bank :=
  ⟨(contractAnswer fixed count (r.words, r.exc)).1, (contractAnswer fixed count (r.words, r.exc)).2, .custom r.bank last⟩

/-- A write of a custom bank: its own exception code, and the write that the coming reads are bound to. -/
def customWritten (last : Option LastWrite) (r : Written Nat) : Written Bank := ⟨r.exc, .custom r.bank last⟩

/-- `read_coils(start, count)` (R151). -/
def Bank.readCoils (b : Bank) (start count : Word) : BitsRead Bank :=
  match b with
  | .default a      => ⟨(readBitSpace a.coils start count).1, (readBitSpace a.coils start count).2, b⟩
  | .custom st last => customBits last (LastWrite.coilsAt last start count) count (Config.customReadCoils st start count)

/-- `read_discrete_inputs(start, count)` (R152). -/
def Bank.readDiscreteInputs (b : Bank) (start count : Word) : BitsRead Bank :=
  match b with
  | .default a      => ⟨(readBitSpace a.discreteInputs start count).1, (readBitSpace a.discreteInputs start count).2, b⟩
  | .custom st last => customBits last none count (Config.customReadDiscreteInputs st start count)

/-- `read_holding_registers(start, count)` (R153). -/
def Bank.readHoldingRegisters (b : Bank) (start count : Word) : WordsRead Bank :=
  match b with
  | .default a      => ⟨(readWordSpace a.holdingRegisters start count).1, (readWordSpace a.holdingRegisters start count).2, b⟩
  | .custom st last =>
    customWords last (LastWrite.registersAt last start count) count (Config.customReadHoldingRegisters st start count)

/-- `read_input_registers(start, count)` (R154). -/
def Bank.readInputRegisters (b : Bank) (start count : Word) : WordsRead Bank :=
  match b with
  | .default a      => ⟨(readWordSpace a.inputRegisters start count).1, (readWordSpace a.inputRegisters start count).2, b⟩
  | .custom st last => customWords last none count (Config.customReadInputRegisters st start count)

/-- `write_single_coil(addr, v)` (R155): no exception is reachable, since `addr` is a u16. -/
def Bank.writeSingleCoil (b : Bank) (addr : Word) (v : Bool) : Written Bank :=
  match b with
  | .default a   => ⟨excSuccess, .default { a with coils := Memory.write a.coils addr.toNat v }⟩
  | .custom st _ => customWritten none (Config.customWriteSingleCoil st addr v)

/-- `write_single_register(addr, v)` (R156). -/
def Bank.writeSingleRegister (b : Bank) (addr v : Word) : Written Bank :=
  match b with
  | .default a   => ⟨excSuccess, .default { a with holdingRegisters := Memory.write a.holdingRegisters addr.toNat v }⟩
  | .custom st _ => customWritten none (Config.customWriteSingleRegister st addr v)

/-- `write_multiple_coils(start, bits)` (R157): nothing is written when the range passes 65535. -/
def Bank.writeMultipleCoils (b : Bank) (start : Word) (bits : List Bool) : Written Bank :=
  match b with
  | .default a =>
    if rangePassesEnd start bits.length then ⟨excIllegalDataAddress, b⟩
    else ⟨excSuccess, .default { a with coils := Memory.writeMany a.coils start.toNat bits }⟩
  | .custom st _ =>
    customWritten (LastWrite.ofRange start bits.length (.coils start bits)) (Config.customWriteMultipleCoils st start bits)

/-- `write_multiple_registers(start, words)` (R158): nothing is written when the range passes 65535. -/
def Bank.writeMultipleRegisters (b : Bank) (start : Word) (words : List Word) : Written Bank :=
  match b with
  | .default a =>
    if rangePassesEnd start words.length then ⟨excIllegalDataAddress, b⟩
    else ⟨excSuccess, .default { a with holdingRegisters := Memory.writeMany a.holdingRegisters start.toNat words }⟩
  | .custom st _ =>
    customWritten (LastWrite.ofRange start words.length (.registers start words)) (Config.customWriteMultipleRegisters st start words)

/-- The bank after one capability call, its results left aside: how a custom handler changes the bank (R121). -/
def Bank.call (b : Bank) : BankCall → Bank
  | .readCoils start count              => (b.readCoils start count).bank
  | .readDiscreteInputs start count     => (b.readDiscreteInputs start count).bank
  | .readHoldingRegisters start count   => (b.readHoldingRegisters start count).bank
  | .readInputRegisters start count     => (b.readInputRegisters start count).bank
  | .writeSingleCoil addr v             => (b.writeSingleCoil addr v).bank
  | .writeSingleRegister addr v         => (b.writeSingleRegister addr v).bank
  | .writeMultipleCoils start bits      => (b.writeMultipleCoils start bits).bank
  | .writeMultipleRegisters start words => (b.writeMultipleRegisters start words).bank

/-- The bank after capability calls in order. -/
def Bank.calls : Bank → List BankCall → Bank
  | b, []      => b
  | b, c :: cs => (b.call c).calls cs

namespace Machine

/-- A command on the bank. Before `start()` the bank is in the host's hands, and what the command leaves in it stands for the choice of
`BANK_INIT` (R39, R272); from `start()` on only the dispatcher reads or writes it, inside its HANDLE steps (R190, R200, R262), and
the command waits (log entry 10). -/
def beforeStart (served : State) (s : State) : Out := .next (if s.life = .config then served else s.report .waiting)

/-- A bit-space read as a command: its results on the command port. -/
def reportBits (r : BitsRead Bank) (s : State) : Out := beforeStart ((s.setBank r.bank).report (.bankBits r.bits r.exc)) s

/-- A word-space read as a command. -/
def reportWords (r : WordsRead Bank) (s : State) : Out := beforeStart ((s.setBank r.bank).report (.bankWords r.words r.exc)) s

/-- A write as a command. -/
def reportWritten (r : Written Bank) (s : State) : Out := beforeStart ((s.setBank r.bank).report (.bankExc r.exc)) s

/-- BANK_READ_COILS (R151). -/
def execBankReadCoils (start count : Word) (s : State) : Out := reportBits (s.bank.readCoils start count) s

/-- BANK_READ_DISCRETE_INPUTS (R152). -/
def execBankReadDiscreteInputs (start count : Word) (s : State) : Out := reportBits (s.bank.readDiscreteInputs start count) s

/-- BANK_READ_HOLDING_REGISTERS (R153). -/
def execBankReadHoldingRegisters (start count : Word) (s : State) : Out := reportWords (s.bank.readHoldingRegisters start count) s

/-- BANK_READ_INPUT_REGISTERS (R154). -/
def execBankReadInputRegisters (start count : Word) (s : State) : Out := reportWords (s.bank.readInputRegisters start count) s

/-- BANK_WRITE_SINGLE_COIL (R155). -/
def execBankWriteSingleCoil (addr : Word) (v : Bool) (s : State) : Out := reportWritten (s.bank.writeSingleCoil addr v) s

/-- BANK_WRITE_SINGLE_REGISTER (R156). -/
def execBankWriteSingleRegister (addr v : Word) (s : State) : Out := reportWritten (s.bank.writeSingleRegister addr v) s

/-- BANK_WRITE_MULTIPLE_COILS (R157). -/
def execBankWriteMultipleCoils (start : Word) (bits : List Bool) (s : State) : Out :=
  reportWritten (s.bank.writeMultipleCoils start bits) s

/-- BANK_WRITE_MULTIPLE_REGISTERS (R158). -/
def execBankWriteMultipleRegisters (start : Word) (words : List Word) (s : State) : Out :=
  reportWritten (s.bank.writeMultipleRegisters start words) s

end Machine

end Sys2Proof
end

