-- ==== Sys2Proof/Machine/Codec.lean ====
section
/-! DEFINITION. The bit-packed codec of coils and discrete inputs (41_handlers.md R122, R123): bit `i` is in byte `i div 8` at
position `i mod 8`, and padding bits are 0. -/

namespace Sys2Proof.Machine

/-- Byte `k` of a packed bit string: bit `j` is bit `8·k + j` of the string, and 0 beyond its end. -/
def packByte (bits : List Bool) (k : Nat) : Byte :=
  (List.range 8).foldl (fun acc j => if bits.getD (8 * k + j) false then acc ||| (1#8 <<< j) else acc) 0#8

/-- BITS_PACK (R122). -/
def packBits (bits : List Bool) : List Byte := (List.range (ceilDiv8 bits.length)).map (packByte bits)

/-- Bit `i` of a packed byte string (R123). -/
def packedBit (bytes : List Byte) (i : Nat) : Bool := (byteAt bytes (i / 8)).getLsbD (i % 8)

/-- BITS_UNPACK (R123): `none` is `Err(SHORT)`. -/
def unpackBits (bytes : List Byte) (n : Nat) : Option (List Bool) :=
  if bytes.length < ceilDiv8 n then none else some ((List.range n).map (packedBit bytes))

/-- BITS_PACK as a command. -/
def execBitsPack (bits : List Bool) (s : State) : Out := .next (s.report (.bytes (packBits bits)))

/-- BITS_UNPACK as a command. -/
def execBitsUnpack (bytes : List Byte) (n : Word) (s : State) : Out := .next (s.report (.unpacked (unpackBits bytes n.toNat)))

end Sys2Proof.Machine
end

