-- ==== Sys2Proof/Machine/Crc.lean ====
section
/-! DEFINITION. The CRC-16/IBM generator (40_crc.md): the LSB-first shift register with constant 0xA001, initial value 0xFFFF and
no final XOR, and its four operations. -/

namespace Sys2Proof.Machine

/-- The value CRC_INIT loads (R111). -/
def crcStart : Word := 0xFFFF#16

/-- One shift step (R112): shift right, and XOR 0xA001 when the bit shifted out is 1. -/
def crcShift (c : Word) : Word := if c.getLsbD 0 then (c >>> 1) ^^^ 0xA001#16 else c >>> 1

/-- `n` shift steps. -/
def crcShifts : Nat → Word → Word
  | 0,     c => c
  | n + 1, c => crcShifts n (crcShift c)

/-- One byte folded into the register (R112): `c ^ zext_16(b)`, then eight shift steps. -/
def crcFold (c : Word) (b : Byte) : Word := crcShifts 8 (c ^^^ b.setWidth 16)

/-- The CRC of a byte string (R113): the bytes folded in index order from the initial value. -/
def crcOf (buf : List Byte) : Word := buf.foldl crcFold crcStart

/-- `b[0..n-2]` of a byte string of length `n >= 2`: what a trailing CRC is taken over. -/
def crcPrefix (b : List Byte) : List Byte := b.take (b.length - 2)

/-- The trailing two bytes, low byte first (R114, R170). -/
def crcTrailer (b : List Byte) : Word := leWord b (b.length - 2)

/-- CRC_INIT (R111). -/
def execCrcInit (s : State) : Out := .next ((s.loadCrc crcStart).report .none)

/-- CRC_UPDATE (R112): `Fault(CRC_UNINITIALISED)` when nothing has written `crc` since reset. -/
def execCrcUpdate (b : Byte) (s : State) : Out :=
  if s.crcLoaded then .next ((s.loadCrc (crcFold s.crc b)).report .none)
  else .next (s.raise .crcUninitialised)

/-- CRC16 (R113): initialises the register itself, and the register holds the result afterwards. -/
def execCrc16 (buf : List Byte) (s : State) : Out := .next ((s.loadCrc (crcOf buf)).report (.crc (crcOf buf)))

/-- CRC_CHECK (R114). The comparison computes `crc16` of the prefix in the register (DEDUCED, log entry 4). -/
def execCrcCheck (adu : List Byte) (s : State) : Out :=
  if adu.length < 2 then .next (s.report (.crcOk false))
  else .next ((s.loadCrc (crcOf (crcPrefix adu))).report (.crcOk (crcOf (crcPrefix adu) == crcTrailer adu)))

end Sys2Proof.Machine
end

