-- ==== Sys2Proof/Machine/Framers.lean ====
section
/-! DEFINITION. The framers (43_framers.md): RTU and TCP parse and serialize, exception injection and response construction, as
functions and as the commands of the command port. The RTU framer's CRC is computed in the CRC register (R170, R171, R113). -/

namespace Sys2Proof.Machine

/-- RTU_PARSE (R170). -/
def parseRtu (b : List Byte) : Except DecodeFailure RtuFrame :=
  if b.length < 4 then .error .short
  else if crcOf (crcPrefix b) ≠ crcTrailer b then .error .crcMismatch
  else .ok ⟨byteAt b 0, byteAt b 1, slice b 2 (b.length - 2)⟩

/-- The CRC register after RTU_PARSE: the CRC of the prefix, unless the input was too short to have one (R170, R113). -/
def State.afterRtuParse (b : List Byte) (s : State) : State :=
  if b.length < 4 then s else s.loadCrc (crcOf (crcPrefix b))

/-- The bytes an RTU frame's CRC is taken over (R171). -/
def rtuBody (f : RtuFrame) : List Byte := f.address :: f.function :: f.data

/-- RTU_SERIALIZE (R171). -/
def serializeRtu (f : RtuFrame) : List Byte := rtuBody f ++ le16 (crcOf (rtuBody f))

/-- TCP_PARSE (R174). -/
def parseTcp (p : Params) (b : List Byte) : Except DecodeFailure TcpFrame :=
  if b.length < 8 then .error .short
  else if p.tcpLengthCheck = .strict ∧ (beWord b 4).toNat ≠ b.length - 6 then .error .lengthMismatch
  else .ok ⟨beWord b 0, beWord b 2, byteAt b 6, byteAt b 7, b.drop 8⟩

/-- TCP_SERIALIZE (R175): `none` is `Fault(TCP_RESPONSE_TOO_LONG)`. -/
def serializeTcp (f : TcpFrame) : Option (List Byte) :=
  if f.data.length + 2 > 65535 then none
  else some (be16 f.txn ++ be16 f.proto ++ be16 (BitVec.ofNat 16 (f.data.length + 2)) ++ f.device :: f.function :: f.data)

/-- SERIALIZE of a frame (R177), with the CRC register as the framer leaves it: `none` is `Fault(TCP_RESPONSE_TOO_LONG)`. -/
def serialize (f : Frame) (s : State) : Option (List Byte × State) :=
  match f with
  | .rtu f => some (serializeRtu f, s.loadCrc (crcOf (rtuBody f)))
  | .tcp f => (serializeTcp f).map fun b => (b, s)

/-- The parse outcome (R28) of an RTU parse. -/
def rtuOutcome : Except DecodeFailure RtuFrame → ParseOutcome
  | .ok f    => .ok (.rtu f)
  | .error e => .err e

/-- The parse outcome (R28) of a TCP parse. -/
def tcpOutcome : Except DecodeFailure TcpFrame → ParseOutcome
  | .ok f    => .ok (.tcp f)
  | .error e => .err e

/-- RTU_PARSE as a command (R170). -/
def execRtuParse (b : List Byte) (s : State) : Out :=
  .next ((s.afterRtuParse b).report (.parsed (rtuOutcome (parseRtu b))))

/-- RTU_SERIALIZE as a command (R171). -/
def execRtuSerialize (f : RtuFrame) (s : State) : Out :=
  .next ((s.loadCrc (crcOf (rtuBody f))).report (.bytes (serializeRtu f)))

/-- TCP_PARSE as a command (R174). -/
def execTcpParse (b : List Byte) (s : State) : Out :=
  .next (s.report (.parsed (tcpOutcome (parseTcp s.cfg b))))

/-- TCP_SERIALIZE as a command (R175). -/
def execTcpSerialize (f : TcpFrame) (s : State) : Out :=
  match serializeTcp f with
  | some b => .next (s.report (.bytes b))
  | none   => .next (s.raise .tcpResponseTooLong)

/-- EXC_INJECT as a command (R178). -/
def execExcInject (f : Frame) (e : Byte) (s : State) : Out := .next (s.report (.frame (injectException f e)))

/-- RESP_BUILD as a command (R179). -/
def execRespBuild (req : Frame) (payload : List Byte) (e : Byte) (s : State) : Out :=
  .next (s.report (.frame (buildResponse req payload e)))

end Sys2Proof.Machine
end

