-- ==== Sys2Proof/Machine/Handlers.lean ====
section
/-! DEFINITION. The eight standard handlers (41_handlers.md R128 to R135), custom handlers (R121), and the first half of HANDLE: a
request's handler is found through the function table (R193). -/

namespace Sys2Proof.Machine

/-- A handler result (R25): payload, exception code, and the bank after the handler's calls. -/
structure HandlerResult where
  payload : List Byte
  exc     : Byte
  bank    : Bank
deriving DecidableEq, Repr, Inhabited

/-- `raise ModbusException(e)` (R14): the payload `[]` and the code `e`. -/
def raiseModbus (e : Byte) (bank : Bank) : HandlerResult := ⟨[], e, bank⟩

/-- Whether a read of no entries answers the empty payload (R9 `EMPTY_READ_FORM`, R127, R128). -/
def emptyReadAnswer (p : Params) (count : Word) : Bool := count == 0#16 && p.emptyReadForm == .empty

/-- A one-byte byte count, `n mod 256` (R87, R88). -/
def byteCount (n : Nat) : Byte := BitVec.ofNat 8 n

/-- The answer of a bit read (R87, R128) from what the bank call returned: R128 packs the bits that the call returned, as many as they
are, and counts the packed bytes (log entry 27). -/
def bitsAnswer (p : Params) (count : Word) (r : BitsRead Bank) : HandlerResult :=
  if r.exc ≠ excSuccess then raiseModbus r.exc r.bank
  else if emptyReadAnswer p count then ⟨[], excSuccess, r.bank⟩
  else ⟨byteCount (packBits r.bits).length :: packBits r.bits, excSuccess, r.bank⟩

/-- The words `w[0]` to `w[count-1]` of a register read's answer (R88, R130): exactly `count` of those the bank call returned. One that
it did not return is the free value `absent` gives (log entry 27). -/
def answeredWords (count : Nat) (absent : Nat → Word) (words : List Word) : List Word :=
  (List.range count).map fun i => words.getD i (absent i)

/-- The answer of a register read (R88, R130) from what the bank call returned. -/
def wordsAnswer (p : Params) (count : Word) (absent : Nat → Word) (r : WordsRead Bank) : HandlerResult :=
  if r.exc ≠ excSuccess then raiseModbus r.exc r.bank
  else if emptyReadAnswer p count then ⟨[], excSuccess, r.bank⟩
  else ⟨byteCount (2 * count.toNat) :: beWords (answeredWords count.toNat absent r.words), excSuccess, r.bank⟩

/-- The answer of a write (R89): the first four bytes of the request's Data, or the bank's exception. -/
def echoAnswer (data : List Byte) (r : Written Bank) : HandlerResult :=
  if r.exc ≠ excSuccess then raiseModbus r.exc r.bank else ⟨opEcho data, excSuccess, r.bank⟩

/-- STD_READ_COILS (R128). -/
def stdReadCoils (p : Params) (bank : Bank) (data : List Byte) : HandlerResult :=
  let e := readCheck p Config.maxReadBits data
  if e ≠ excSuccess then raiseModbus e bank
  else bitsAnswer p (opCount data) (bank.readCoils (opRegister data) (opCount data))

/-- STD_READ_DISCRETE_INPUTS (R129). -/
def stdReadDiscreteInputs (p : Params) (bank : Bank) (data : List Byte) : HandlerResult :=
  let e := readCheck p Config.maxReadBits data
  if e ≠ excSuccess then raiseModbus e bank
  else bitsAnswer p (opCount data) (bank.readDiscreteInputs (opRegister data) (opCount data))

/-- STD_READ_HOLDING_REGISTERS (R130). -/
def stdReadHoldingRegisters (p : Params) (bank : Bank) (data : List Byte) : HandlerResult :=
  let e := readCheck p Config.maxReadRegs data
  if e ≠ excSuccess then raiseModbus e bank
  else
    wordsAnswer p (opCount data) (Config.absentWord .stdReadHoldingRegisters bank data)
      (bank.readHoldingRegisters (opRegister data) (opCount data))

/-- STD_READ_INPUT_REGISTERS (R131). -/
def stdReadInputRegisters (p : Params) (bank : Bank) (data : List Byte) : HandlerResult :=
  let e := readCheck p Config.maxReadRegs data
  if e ≠ excSuccess then raiseModbus e bank
  else
    wordsAnswer p (opCount data) (Config.absentWord .stdReadInputRegisters bank data)
      (bank.readInputRegisters (opRegister data) (opCount data))

/-- STD_WRITE_SINGLE_COIL (R132). -/
def stdWriteSingleCoil (bank : Bank) (data : List Byte) : HandlerResult :=
  let e := singleWriteCheck data
  if e ≠ excSuccess then raiseModbus e bank
  else echoAnswer data (bank.writeSingleCoil (opRegister data) (opCoilValue data))

/-- STD_WRITE_SINGLE_REGISTER (R133). -/
def stdWriteSingleRegister (bank : Bank) (data : List Byte) : HandlerResult :=
  let e := singleWriteCheck data
  if e ≠ excSuccess then raiseModbus e bank
  else echoAnswer data (bank.writeSingleRegister (opRegister data) (opValue data))

/-- STD_WRITE_MULTIPLE_COILS (R134). The length check guards BITS_UNPACK, so its `Err(SHORT)` is never met (R123). -/
def stdWriteMultipleCoils (bank : Bank) (data : List Byte) : HandlerResult :=
  let e := coilsWriteCheck data
  if e ≠ excSuccess then raiseModbus e bank
  else match unpackBits (opPayload data) (opCount data).toNat with
    | some bits => echoAnswer data (bank.writeMultipleCoils (opRegister data) bits)
    | none      => raiseModbus excIllegalDataValue bank

/-- STD_WRITE_MULTIPLE_REGISTERS (R135). -/
def stdWriteMultipleRegisters (bank : Bank) (data : List Byte) : HandlerResult :=
  let e := registersWriteCheck data
  if e ≠ excSuccess then raiseModbus e bank
  else echoAnswer data (bank.writeMultipleRegisters (opRegister data) (opWords (opPayload data) (opCount data).toNat))

/-- A custom handler (R121): the free value gives payload, exception code and capability calls, and the bank after them. -/
def customResult (k : Nat) (bank : Bank) (f : Frame) : HandlerResult :=
  let r := Config.customHandler k bank f
  ⟨r.payload, r.exc, bank.calls r.calls⟩

/-- `h(BANK, f)` (R120, R193). The standard handlers read only the frame's Data. -/
def runHandler (p : Params) (h : HandlerId) (bank : Bank) (f : Frame) : HandlerResult :=
  match h with
  | .stdReadCoils              => stdReadCoils p bank f.data
  | .stdReadDiscreteInputs     => stdReadDiscreteInputs p bank f.data
  | .stdReadHoldingRegisters   => stdReadHoldingRegisters p bank f.data
  | .stdReadInputRegisters     => stdReadInputRegisters p bank f.data
  | .stdWriteSingleCoil        => stdWriteSingleCoil bank f.data
  | .stdWriteSingleRegister    => stdWriteSingleRegister bank f.data
  | .stdWriteMultipleCoils     => stdWriteMultipleCoils bank f.data
  | .stdWriteMultipleRegisters => stdWriteMultipleRegisters bank f.data
  | .custom k                  => customResult k bank f

/-- The first half of HANDLE (R193): look the function up, IllegalFunction for an empty slot, else run the handler. -/
def handlerResult (s : State) (f : Frame) : HandlerResult :=
  match s.slot f.function with
  | none   => ⟨[], excIllegalFunction, s.bank⟩
  | some h => runHandler s.cfg h s.bank f

end Sys2Proof.Machine
end

