-- ==== Sys2Proof/Machine/Dispatcher.lean ====
section
/-! DEFINITION. The dispatcher (44_dispatch.md): the HANDLE, ROUTE, FN_LOOKUP and FN_SET operations, as commands, and the dispatcher's
own steps. -/

namespace Sys2Proof.Machine

/-- HANDLE (R193): the response bytes and the state after it, or the fault it raises. A fault leaves every other part of the
state as it was (R254), so the state of the handler's writes is then dropped. -/
def handleRequest (req : Request) (s : State) : Except BlockFault (List Byte × State) :=
  let r := handlerResult s req.frame
  match serialize (buildResponse req.frame r.payload r.exc) (s.setBank r.bank) with
  | some (bytes, s') => .ok (bytes, s')
  | none             => .error .tcpResponseTooLong

/-- The request the dispatcher takes next, and those behind it: the head of `Q` in `D_IDLE` (R192 (a)). -/
def State.nextRequest (s : State) : Option (Request × List Request) :=
  match s.dstate, s.queue with
  | .idle, req :: rest => some (req, rest)
  | _, _ => none

/-- The request arm for the request taken (R192 (a)): `pop`, HANDLE, and `D_WRITE`. -/
def takeRequest (req : Request) (rest : List Request) (s : State) : Except BlockFault (List Byte × State) :=
  match handleRequest req s with
  | .ok (bytes, s') => .ok (bytes, (s'.setQueue rest).setDispatcher (.write bytes req.sink))
  | .error f        => .error f

/-- A command that stands for the dispatcher's request arm: enabled when the request it takes next is the one `wanted`; it then shows
its result. Otherwise it waits. So from `start()` on the bank is reached in no other way than by the dispatcher, one request at a
time in queue order (R190, R200). -/
def asDispatcher (wanted : Request → Bool) (shown : List Byte → Result) (s : State) : Out :=
  match s.nextRequest with
  | some (req, rest) =>
    if wanted req then
      match takeRequest req rest s with
      | .ok (bytes, t) => .next (t.report (shown bytes))
      | .error f       => .next (s.raise f)
    else .next (s.report .waiting)
  | none => .next (s.report .waiting)

/-- HANDLE as a command (R193). Before `start()` it handles the request on the function table and bank that the host is configuring;
from then on it is the dispatcher's own step, taken when this request is the one it takes next (R190; log entry 10). The kind of
the frame is not compared with the kind of the sink: R24 says that they agree, and no request of a reader differs (log entry 26). -/
def execHandle (req : Request) (s : State) : Out :=
  if s.life = .config then
    match handleRequest req s with
    | .ok (bytes, s') => .next (s'.report (.response bytes req.sink))
    | .error f        => .next (s.raise f)
  else asDispatcher (fun r => decide (r = req)) (fun bytes => .response bytes req.sink) s

/-- ROUTE's effect (R194), the dispatcher's write step. -/
def routeResponse (bytes : List Byte) (sink : SinkId) (s : State) : State :=
  (s.writeBack bytes sink).setDispatcher .idle

/-- ROUTE as a command (R194): enabled when `dstate = D_WRITE(bytes, s)` with its own operands; otherwise it waits. -/
def execRoute (bytes : List Byte) (sink : SinkId) (s : State) : Out :=
  if s.dstate = .write bytes sink then .next ((routeResponse bytes sink s).report .none)
  else .next (s.report .waiting)

/-- Whether the function table may be read at a code: before `start()`, or by the dispatcher for the request it takes next, whose
HANDLE looks that slot up (R36, R190). -/
def State.mayLookup (fc : Byte) (s : State) : Bool :=
  decide (s.life = .config) || s.nextRequest.any fun r => decide (r.1.frame.function = fc)

/-- FN_LOOKUP (R196). From `start()` on only the dispatcher reads the table (R190), so the command is enabled for the request it takes
next (log entry 10). -/
def execFnLookup (fc : Byte) (s : State) : Out :=
  .next (s.report (if s.mayLookup fc then .slot (s.slot fc) else .waiting))

/-- FN_SET (R197): refused outside `CONFIG` (decision D35). -/
def execFnSet (fc : Byte) (h : Option HandlerId) (s : State) : Out :=
  if s.life = .config then .next ((s.setSlot fc h).report .none)
  else .refused (.wrongLifecycle .fnSet)

/-- DISP start (R191). -/
def dispStart (s : State) : Option State :=
  if s.dstate = .off ∧ s.life = .running then some (s.setDispatcher .idle) else none

/-- DISP select, request arm (R192 (a)). A fault leaves the request in the queue (R254). -/
def dispRequest (s : State) : Option State :=
  match s.nextRequest with
  | some (req, rest) =>
    match takeRequest req rest s with
    | .ok (_, t) => some t
    | .error f   => some (s.raise f)
  | none => none

/-- DISP select, close arm (R192 (b)). `D_EXIT` is terminal (R195). -/
def dispClose (s : State) : Option State :=
  if s.dstate = .idle ∧ s.close = true then some (s.setDispatcher .exit) else none

/-- DISP write, the ROUTE step (R194). -/
def dispWrite (s : State) : Option State :=
  match s.dstate with
  | .write bytes sink => some (routeResponse bytes sink s)
  | _                 => none

end Sys2Proof.Machine
end

