-- ==== Sys2Proof/Machine/Lifecycle.lean ====
section
/-! DEFINITION. The lifecycle calls (70_reset_and_hazards.md R271, R276), the accept units (R214 to R216) and the CLOSE command. -/

namespace Sys2Proof.Machine

/-- `listen_tcp(addr)` (R271): `ok` is the host's draw. A failed call returns an error and changes nothing (R245). -/
def listenTcp (ok : Bool) (s : State) : Out :=
  if s.life = .config then .next (if ok then s.setListeners (s.listeners ++ [⟨.off, []⟩]) else s)
  else .refused (.wrongLifecycle .listenTcp)

/-- `listen_rtu(config)` (R271). -/
def listenRtu (ok : Bool) (s : State) : Out :=
  if s.life = .config then .next (if ok then s.setPorts (s.ports ++ [SerialPort.fresh]) else s)
  else .refused (.wrongLifecycle .listenRtu)

/-- `start()` (R271). -/
def startCall (s : State) : Out :=
  if s.life = .config then .next (s.setLife .running) else .refused (.wrongLifecycle .start)

/-- CLOSE, the `shutdown()` call (R276 (1)): `close <- 1; life <- SHUTDOWN`. -/
def execClose (s : State) : Out :=
  if s.life = .running then .next ((s.setClose.setLife .shutdown).report .none)
  else .refused (.wrongLifecycle .shutdown)

/-- Every reader is in `T_CLOSED` or `U_CLOSED` (R276 (2)). -/
def State.readersClosed (s : State) : Bool :=
  s.listeners.all (fun li => li.conns.all fun c => decide (c.rstate = .closed)) &&
  s.ports.all (fun sp => decide (sp.rstate = .closed))

/-- Closing a listener (R276 (2)): an accept unit not already in `A_CLOSED` or `A_ERROR` goes to `A_CLOSED`. -/
def AccState.close : AccState → AccState
  | .error => .error
  | _      => .closed

/-- Completion of `shutdown()` (R276 (2)): listeners closed, every port's `open` 0, `life <- STOPPED`. -/
def shutdownComplete (s : State) : Option State :=
  if s.life = .shutdown ∧ s.readersClosed = true then
    some (((s.setListeners (s.listeners.map fun li => { li with acc := li.acc.close })).setPorts
      (s.ports.map fun sp => { sp with isOpen := false })).setLife .stopped)
  else none

/-- The TCP connections whose write side is open: what `MAX_CONNECTIONS` bounds (R9). -/
def State.openConnections (s : State) : Nat :=
  (s.listeners.map fun li => li.conns.countP (·.isOpen)).sum

/-- Whether one more connection may be accepted (R9 `MAX_CONNECTIONS`, decision D45). -/
def State.mayAccept (s : State) : Bool :=
  match s.cfg.maxConnections with
  | none       => true
  | some bound => decide (s.openConnections < bound)

/-- ACC accept (R214): the next connection of listener `l`, with a reader in `T_HDR([])`. -/
def acceptConnection (l : Nat) (s : State) : Option State :=
  (s.listener? l).bind fun li =>
    if li.acc = .run ∧ s.mayAccept = true then some (s.setListener l { li with conns := li.conns ++ [Conn.fresh] }) else none

/-- ACC start (R215). -/
def accStart (l : Nat) (s : State) : Option State :=
  s.onAcc l fun a => if a = .off ∧ s.life = .running then some .run else none

/-- ACC errors (R216): a temporary error pauses the unit; a permanent one closes it cleanly when `close = 1`, else it returns the error. -/
def acceptError (l : Nat) (permanent : Bool) (s : State) : Option State :=
  s.onAcc l fun a =>
    if a = .run then some (if permanent then (if s.close then .closed else .error) else .pause) else none

/-- The end of the pause (R216 (a)). -/
def accResume (l : Nat) (s : State) : Option State :=
  s.onAcc l fun a => if a = .pause then some .run else none

end Sys2Proof.Machine
end

