-- ==== Sys2Proof/Machine/Readers.lean ====
section
/-! DEFINITION. The transport readers (45_transport_readers.md): TCP connection readers, RTU port readers, their common enqueue and
wait, and the ENQUEUE command. Each step is `none` where its rule does not enable it. -/

namespace Sys2Proof.Machine

/-- TCPR header read of `k` bytes (R211). `L = 0` is a frame-decode failure (decision D22). -/
def Conn.readHeader (k : Nat) (c : Conn) : Option Conn :=
  match c.rstate with
  | .hdr hbuf =>
    if 1 ≤ k ∧ k ≤ min (7 - hbuf.length) c.inp.length then
      let hbuf' := hbuf ++ c.inp.take k
      let c' := { c with inp := c.inp.drop k }
      if hbuf'.length < 7 then some { c' with rstate := .hdr hbuf' }
      else if beWord hbuf' 4 = 0#16 then some c'.teardown
      else some { c' with rstate := .body hbuf' ((beWord hbuf' 4).toNat - 1) [] }
    else none
  | _ => none

/-- TCPR body read of `k` bytes (R212). -/
def Conn.readBody (k : Nat) (c : Conn) : Option Conn :=
  match c.rstate with
  | .body hdr need bbuf =>
    if 1 ≤ k ∧ k ≤ min need c.inp.length then
      some { c with rstate := .body hdr (need - k) (bbuf ++ c.inp.take k), inp := c.inp.drop k }
    else none
  | _ => none

/-- TCPR parse (R213). -/
def Conn.parse (p : Params) (sink : SinkId) (c : Conn) : Option Conn :=
  match c.rstate with
  | .body hdr 0 bbuf =>
    match parseTcp p (hdr ++ bbuf) with
    | .ok f    => some { c with rstate := .enq ⟨.tcp f, sink⟩ }
    | .error _ => some c.teardown
  | _ => none

/-- TCPR close check (R221 (a)). -/
def Conn.closeCheck (close : Bool) (c : Conn) : Option Conn :=
  match c.rstate with
  | .hdr _      => if close then some c.teardown else none
  | .body _ _ _ => if close then some c.teardown else none
  | _           => none

/-- TCPR peer close or I/O error (R221 (b)): the bytes of a partial frame are dropped. -/
def Conn.endOfInput (c : Conn) : Option Conn :=
  match c.rstate with
  | .hdr _         => if c.inp = [] ∧ c.eof = true then some c.teardown else none
  | .body _ need _ => if 0 < need ∧ c.inp = [] ∧ c.eof = true then some c.teardown else none
  | _              => none

/-- The peer sends bytes (R262): while `eof(s) = 0` and the reader is not closed. -/
def Conn.receive (bytes : List Byte) (c : Conn) : Option Conn :=
  if c.eof = false ∧ c.rstate ≠ .closed then some { c with inp := c.inp ++ bytes } else none

/-- The peer closes, or an I/O error is signalled (R262): `eof(s) <- 1` at any time. -/
def Conn.hangUp (c : Conn) : Option Conn := some { c with eof := true }

/-- TCPR header read (R211). -/
def tcpHeader (l n k : Nat) (s : State) : Option State := s.onConn l n (Conn.readHeader k)

/-- TCPR body read (R212). -/
def tcpBody (l n k : Nat) (s : State) : Option State := s.onConn l n (Conn.readBody k)

/-- TCPR parse (R213). -/
def tcpParse (l n : Nat) (s : State) : Option State := s.onConn l n (Conn.parse s.cfg (.tcp l n))

/-- TCPR close check, and a read deadline that expires: with `close = 0` a deadline changes nothing (R221 (a), R244). -/
def tcpCloseCheck (l n : Nat) (s : State) : Option State := s.onConn l n (Conn.closeCheck s.close)

/-- TCPR end of input (R221 (b)). -/
def tcpEnd (l n : Nat) (s : State) : Option State := s.onConn l n Conn.endOfInput

/-- The peer of `TCP(l, n)` sends bytes (R262). -/
def peerSend (l n : Nat) (bytes : List Byte) (s : State) : Option State := s.onConn l n (Conn.receive bytes)

/-- The peer of `TCP(l, n)` closes (R262). -/
def peerHangUp (l n : Nat) (s : State) : Option State := s.onConn l n Conn.hangUp

/-- RTUR start (R223 (a)). -/
def SerialPort.startReader (life : Life) (sp : SerialPort) : Option SerialPort :=
  if sp.rstate = .off ∧ life = .running then some { sp with rstate := .check } else none

/-- The close of a port whose reader never started: with `close = 1` it is closed from `U_OFF`. R228 says that every reader ends closed
after `close = 1`, and R223 (a) starts a reader only in `RUNNING`; this step is what makes both hold (log entry 22). -/
def SerialPort.closeUnstarted (close : Bool) (sp : SerialPort) : Option SerialPort :=
  if sp.rstate = .off ∧ close = true then some sp.shut else none

/-- RTUR check (R223 (b)). -/
def SerialPort.checkClose (close : Bool) (sp : SerialPort) : Option SerialPort :=
  match sp.rstate with
  | .check => if close then some sp.shut else some { sp with rstate := .block }
  | _      => none

/-- What RTUR read makes of a chunk (R222): an empty chunk and a chunk that is no frame are discarded. -/
def SerialPort.readChunk (sink : SinkId) (chunk : List Byte) (sp : SerialPort) : Option SerialPort :=
  if sp.rstate = .block ∧ chunk.length ≤ Config.rtuReadMax then
    if chunk = [] then some { sp with rstate := .check }
    else match parseRtu chunk with
      | .ok f    => some { sp with rstate := .enq ⟨.rtu f, sink⟩ }
      | .error _ => some { sp with rstate := .check }
  else none

/-- RTUR port error (R224). -/
def SerialPort.portError (sp : SerialPort) : Option SerialPort :=
  if sp.rstate = .block then some sp.shut else none

/-- RTUR start (R223 (a)). -/
def rtuStart (p : Nat) (s : State) : Option State := s.onPort p (SerialPort.startReader s.life)

/-- The close of a port whose reader never started (R228). -/
def rtuUnstarted (p : Nat) (s : State) : Option State := s.onPort p (SerialPort.closeUnstarted s.close)

/-- RTUR check (R223 (b)). -/
def rtuCheck (p : Nat) (s : State) : Option State := s.onPort p (SerialPort.checkClose s.close)

/-- RTUR read (R222): the serial line returns a chunk, and RTU_PARSE runs in the CRC register (R170). -/
def serialRead (p : Nat) (chunk : List Byte) (s : State) : Option State :=
  (s.onPort p (SerialPort.readChunk (.rtu p) chunk)).map (State.afterRtuParse chunk)

/-- RTUR port error (R224). -/
def serialError (p : Nat) (s : State) : Option State := s.onPort p SerialPort.portError

/-- Enqueue, push arm (R217 (a), R225): enabled when the reader holds a parsed request and the queue has space. -/
def pushRequest (sink : SinkId) (s : State) : Option State :=
  match s.parsedRequest sink with
  | some req =>
    if s.queue.length < s.cfg.channelDepth then some ((s.setQueue (s.queue ++ [req])).startWait sink req) else none
  | none => none

/-- Enqueue, abandon arm (R217 (b), R225): enabled when the reader holds a parsed request and `close = 1`. -/
def abandonRequest (sink : SinkId) (s : State) : Option State :=
  if (s.parsedRequest sink).isSome = true ∧ s.close = true then some (s.closeSource sink) else none

/-- Reader wait abandoned on close (R219). -/
def leaveWait (sink : SinkId) (s : State) : Option State :=
  if (s.awaited sink).isSome = true ∧ s.close = true then some (s.closeSource sink) else none

/-- The enqueue step of a reader when the choice between two enabled arms is given (R217). -/
def enqueueStep (pushFirst : Bool) (sink : SinkId) (s : State) : Option State :=
  match pushRequest sink s, abandonRequest sink s with
  | some pushed, some dropped => some (if pushFirst then pushed else dropped)
  | some pushed, none         => some pushed
  | none,        some dropped => some dropped
  | none,        none         => none

/-- ENQUEUE as a command (R217, R225): the enqueue step of the reader that holds this request. When both arms are enabled the
choice is a free value (decision D20). With no space and `close = 0`, or where no reader holds the request, it waits. -/
def execEnqueue (req : Request) (s : State) : Out :=
  if s.parsedRequest req.sink = some req then
    match enqueueStep (Config.freeChoice s.draws) req.sink s with
    | some s' => .next ((s'.countDraw).report .none)
    | none    => .next (s.report .waiting)
  else .next (s.report .waiting)

end Sys2Proof.Machine
end

