-- ==== Sys2Proof/Machine/Requests.lean ====
section
/-! DEFINITION. The request instructions: a request is handled through the function table (R193), which at reset maps each standard code
to its own handler (R93); and the exception response form. -/

namespace Sys2Proof.Machine

/-- A request handled and its response built (R193). Before `start()` it is HANDLE up to SERIALIZE, on the function table and bank that the
host is configuring; from then on it is the dispatcher's request arm for the request it takes next, when that has this very frame
(R190, R200; log entries 10 and 12). -/
def serveFrame (f : Frame) (s : State) : Out :=
  let r := handlerResult s f
  let shown := Result.handled r.payload r.exc (buildResponse f r.payload r.exc)
  if s.life = .config then .next ((s.setBank r.bank).report shown)
  else asDispatcher (fun req => decide (req.frame = f)) (fun _ => shown) s

/-- READ_COILS, function code 1. -/
def execReadCoils (hdr : Header) (data : List Byte) (s : State) : Out :=
  serveFrame (hdr.frame FnCode.readCoils.code data) s

/-- READ_DISCRETE_INPUTS, function code 2. -/
def execReadDiscreteInputs (hdr : Header) (data : List Byte) (s : State) : Out :=
  serveFrame (hdr.frame FnCode.readDiscreteInputs.code data) s

/-- READ_HOLDING_REGISTERS, function code 3. -/
def execReadHoldingRegisters (hdr : Header) (data : List Byte) (s : State) : Out :=
  serveFrame (hdr.frame FnCode.readHoldingRegisters.code data) s

/-- READ_INPUT_REGISTERS, function code 4. -/
def execReadInputRegisters (hdr : Header) (data : List Byte) (s : State) : Out :=
  serveFrame (hdr.frame FnCode.readInputRegisters.code data) s

/-- WRITE_SINGLE_COIL, function code 5. -/
def execWriteSingleCoil (hdr : Header) (data : List Byte) (s : State) : Out :=
  serveFrame (hdr.frame FnCode.writeSingleCoil.code data) s

/-- WRITE_SINGLE_REGISTER, function code 6. -/
def execWriteSingleRegister (hdr : Header) (data : List Byte) (s : State) : Out :=
  serveFrame (hdr.frame FnCode.writeSingleRegister.code data) s

/-- WRITE_MULTIPLE_COILS, function code 15. -/
def execWriteMultipleCoils (hdr : Header) (data : List Byte) (s : State) : Out :=
  serveFrame (hdr.frame FnCode.writeMultipleCoils.code data) s

/-- WRITE_MULTIPLE_REGISTERS, function code 16. -/
def execWriteMultipleRegisters (hdr : Header) (data : List Byte) (s : State) : Out :=
  serveFrame (hdr.frame FnCode.writeMultipleRegisters.code data) s

/-- UNKNOWN_FUNCTION: a code with no standard handler. With an empty slot it is answered with IllegalFunction (R94, R193); with a
slot that configuration filled (R96), its handler runs. -/
def execUnknownFunction (function : Byte) (hdr : Header) (data : List Byte) (s : State) : Out :=
  serveFrame (hdr.frame function data) s

/-- EXCEPTION_RESPONSE: the response form EXC (R90, R178), the function byte with its high bit set and `[e]` as Data. -/
def execExceptionResponse (hdr : Header) (function e : Byte) (s : State) : Out :=
  .next (s.report (.frame (hdr.frame (function ||| 0x80#8) [e])))

end Sys2Proof.Machine
end

