-- ==== Sys2Proof/Machine/Reserved.lean ====
section
/-! DEFINITION. Reserved operation selectors (30_encoding.md R103): such a command has no meaning and no step; it is refused. -/

namespace Sys2Proof.Machine

/-- RESERVED_OPSEL (R103, decision D7). -/
def execReservedOpsel (opsel : Byte) (_s : State) : Out := .refused (.reservedOpsel opsel)

end Sys2Proof.Machine
end

