-- ==== Sys2Proof/Machine/Dispatch.lean ====
section
/-! DEFINITION. The meaning of every instruction: one arm per constructor. -/

namespace Sys2Proof.Machine

def exec (i : Instr) (s : State) : Host.Outcome State Fault Refusal :=
  match i with
  | .readCoils hdr data => Sys2Proof.Machine.execReadCoils hdr data s
  | .readDiscreteInputs hdr data => Sys2Proof.Machine.execReadDiscreteInputs hdr data s
  | .readHoldingRegisters hdr data => Sys2Proof.Machine.execReadHoldingRegisters hdr data s
  | .readInputRegisters hdr data => Sys2Proof.Machine.execReadInputRegisters hdr data s
  | .writeSingleCoil hdr data => Sys2Proof.Machine.execWriteSingleCoil hdr data s
  | .writeSingleRegister hdr data => Sys2Proof.Machine.execWriteSingleRegister hdr data s
  | .writeMultipleCoils hdr data => Sys2Proof.Machine.execWriteMultipleCoils hdr data s
  | .writeMultipleRegisters hdr data => Sys2Proof.Machine.execWriteMultipleRegisters hdr data s
  | .unknownFunction function hdr data => Sys2Proof.Machine.execUnknownFunction function hdr data s
  | .exceptionResponse hdr function e => Sys2Proof.Machine.execExceptionResponse hdr function e s
  | .crcInit => Sys2Proof.Machine.execCrcInit s
  | .crcUpdate b => Sys2Proof.Machine.execCrcUpdate b s
  | .crc16 buf => Sys2Proof.Machine.execCrc16 buf s
  | .crcCheck adu => Sys2Proof.Machine.execCrcCheck adu s
  | .bitsPack bits => Sys2Proof.Machine.execBitsPack bits s
  | .bitsUnpack bytes n => Sys2Proof.Machine.execBitsUnpack bytes n s
  | .rtuParse b => Sys2Proof.Machine.execRtuParse b s
  | .rtuSerialize f => Sys2Proof.Machine.execRtuSerialize f s
  | .tcpParse b => Sys2Proof.Machine.execTcpParse b s
  | .tcpSerialize f => Sys2Proof.Machine.execTcpSerialize f s
  | .excInject f e => Sys2Proof.Machine.execExcInject f e s
  | .respBuild req payload e => Sys2Proof.Machine.execRespBuild req payload e s
  | .fnLookup fc => Sys2Proof.Machine.execFnLookup fc s
  | .handle req => Sys2Proof.Machine.execHandle req s
  | .route bytes sink => Sys2Proof.Machine.execRoute bytes sink s
  | .fnSet fc h => Sys2Proof.Machine.execFnSet fc h s
  | .close => Sys2Proof.Machine.execClose s
  | .enqueue req => Sys2Proof.Machine.execEnqueue req s
  | .bankReadCoils start count => Sys2Proof.Machine.execBankReadCoils start count s
  | .bankReadDiscreteInputs start count => Sys2Proof.Machine.execBankReadDiscreteInputs start count s
  | .bankReadHoldingRegisters start count => Sys2Proof.Machine.execBankReadHoldingRegisters start count s
  | .bankReadInputRegisters start count => Sys2Proof.Machine.execBankReadInputRegisters start count s
  | .bankWriteSingleCoil addr v => Sys2Proof.Machine.execBankWriteSingleCoil addr v s
  | .bankWriteSingleRegister addr v => Sys2Proof.Machine.execBankWriteSingleRegister addr v s
  | .bankWriteMultipleCoils start bits => Sys2Proof.Machine.execBankWriteMultipleCoils start bits s
  | .bankWriteMultipleRegisters start words => Sys2Proof.Machine.execBankWriteMultipleRegisters start words s
  | .reservedOpsel opsel => Sys2Proof.Machine.execReservedOpsel opsel s

end Sys2Proof.Machine
end

