-- ==== Sys2Proof/Machine/Moves.lean ====
section
/-! DEFINITION. The moves of the host and of the agents (R20, R246, R262), each the step its rule gives, and where the next input
comes from. -/

namespace Sys2Proof.Machine

/-- One move. The lifecycle calls are refused outside the state they are allowed in (R271); any other move that is not
enabled changes nothing. -/
def runMove (m : Move) (s : State) : Out :=
  match m with
  | .listenTcp ok            => listenTcp ok s
  | .listenRtu ok            => listenRtu ok s
  | .start                   => startCall s
  | .send l n bytes          => orWait s (peerSend l n bytes s)
  | .hangUp l n              => orWait s (peerHangUp l n s)
  | .accept l                => orWait s (acceptConnection l s)
  | .acceptError l permanent => orWait s (acceptError l permanent s)
  | .accStart l              => orWait s (accStart l s)
  | .accResume l             => orWait s (accResume l s)
  | .dispStart               => orWait s (dispStart s)
  | .dispRequest             => orWait s (dispRequest s)
  | .dispClose               => orWait s (dispClose s)
  | .dispWrite               => orWait s (dispWrite s)
  | .tcpHeader l n k         => orWait s (tcpHeader l n k s)
  | .tcpBody l n k           => orWait s (tcpBody l n k s)
  | .tcpParse l n            => orWait s (tcpParse l n s)
  | .tcpCloseCheck l n       => orWait s (tcpCloseCheck l n s)
  | .tcpEnd l n              => orWait s (tcpEnd l n s)
  | .push sink               => orWait s (pushRequest sink s)
  | .abandon sink            => orWait s (abandonRequest sink s)
  | .leaveWait sink          => orWait s (leaveWait sink s)
  | .rtuStart p              => orWait s (rtuStart p s)
  | .rtuUnstarted p          => orWait s (rtuUnstarted p s)
  | .rtuCheck p              => orWait s (rtuCheck p s)
  | .serialRead p chunk      => orWait s (serialRead p chunk s)
  | .serialError p           => orWait s (serialError p s)
  | .shutdownComplete        => orWait s (shutdownComplete s)

/-- The input the next step consumes, and the state it is consumed from: the first input listed, or a free value when none is
(R16, R249: any step of any agent may come next). -/
def nextInput (s : State) : Input × State :=
  match s.inputs with
  | i :: rest => (i, s.setInputs rest)
  | []        => (Config.freeInput s.draws, s.countDraw)

/-- A message put where the next step takes its input from. -/
def putMessage (message : Port × List Byte) (s : State) : State := s.setInputs (.message message.1 message.2 :: s.inputs)

end Sys2Proof.Machine
end

