-- ==== Sys2Proof/Machine/Step.lean ====
section
/-! DEFINITION. One step of the block: in a faulted state none (R254); otherwise the next input, an instruction's bytes on a port
that are decoded and executed, or a move. -/

namespace Sys2Proof.Machine

/-- One input consumed. -/
def consume (i : Input) (s : State) : Out :=
  match i with
  | .message port bytes =>
    match decode port bytes with
    | .ok instr  => exec instr s
    | .error why => .refused (.undecodable why)
  | .move m => runMove m s

/-- One step. -/
def step (s : State) : Host.Outcome State Fault Refusal :=
  match s.fault with
  | some f => .fault (.halted f)
  | none   => consume (nextInput s).1 (nextInput s).2

/-- `s` with the instruction of a table word placed as its next input: the bytes on the port of the word's table row. -/
def State.withFetchWord (s : State) (nbits w : Nat) : State := putMessage (tableMessage nbits w) s

end Sys2Proof.Machine
end

