-- ==== Sys2Proof/Safety.lean ====
section
/-! DEFINITION. What counts as a sound state and as the end of a run, in the terms the statements use: the bounds of the reader
buffers (R42), one outstanding request per source (R226), what the lifecycle promises (R34, R271, R276), and R278. -/

namespace Sys2Proof.Machine

/-- A frame a TCP reader can have parsed (R24, R100). -/
def fromTcpReader (f : Frame) : Prop := ∃ t, f = .tcp t ∧ t.data.length ≤ Config.maxTcpData

/-- A frame an RTU reader can have parsed (R24, R100): at most 512 bytes, 4 of them not Data. -/
def fromRtuReader (f : Frame) : Prop := ∃ t, f = .rtu t ∧ t.data.length ≤ Config.rtuReadMax - 4

/-- The bounds of a TCP reader's buffers (R32, R42), and a held request names the reader's own sink (R24, R210). -/
def TcpReader.wf (sink : SinkId) : TcpReader → Prop
  | .hdr hbuf            => hbuf.length < 7
  | .body head need bbuf => head.length = 7 ∧ need + bbuf.length + 1 = (beWord head 4).toNat
  | .enq req             => req.sink = sink ∧ fromTcpReader req.frame
  | .wait req            => req.sink = sink ∧ fromTcpReader req.frame
  | .closed              => True

/-- A held request of an RTU reader names the reader's own sink. -/
def RtuReader.wf (sink : SinkId) : RtuReader → Prop
  | .off      => True
  | .check    => True
  | .block    => True
  | .enq req  => req.sink = sink ∧ fromRtuReader req.frame
  | .wait req => req.sink = sink ∧ fromRtuReader req.frame
  | .closed   => True

/-- A sound TCP source: its buffers are in bounds, its write side is open exactly while its reader is not closed (R41, R220), and a
closed reader has dropped the bytes left (R220). -/
structure Conn.wf (sink : SinkId) (c : Conn) : Prop where
  reader    : c.rstate.wf sink
  openIff   : c.isOpen = true ↔ c.rstate ≠ .closed
  dropped   : c.rstate = .closed → c.inp = []

/-- A sound RTU source (R41, R223). -/
structure SerialPort.wf (sink : SinkId) (sp : SerialPort) : Prop where
  reader    : sp.rstate.wf sink
  openIff   : sp.isOpen = true ↔ sp.rstate ≠ .closed

/-- Every source is sound. -/
structure State.SourcesWf (s : State) : Prop where
  conns : ∀ l n c, s.conn? l n = some c → c.wf (.tcp l n)
  ports : ∀ p sp, s.port? p = some sp → sp.wf (.rtu p)

/-- The source of a sink id is there and its reader is in `T_CLOSED` or `U_CLOSED`. -/
def State.sourceClosed (s : State) : SinkId → Bool
  | .tcp l n => (s.conn? l n).any fun c => decide (c.rstate = .closed)
  | .rtu p   => (s.port? p).any fun sp => decide (sp.rstate = .closed)

/-- The requests of one source that the block holds between their push and the end of their ROUTE step: those in the queue, and
the one whose response the dispatcher is writing. -/
def State.outstanding (s : State) (sink : SinkId) : Nat :=
  s.queue.countP (fun r => decide (r.sink = sink)) +
  match s.dstate with
  | .write _ k => if k = sink then 1 else 0
  | _          => 0

/-- `open(s)` of the source of a sink id (R41); false where there is no such source. -/
def State.openOf (s : State) : SinkId → Bool
  | .tcp l n => (s.conn? l n).any (·.isOpen)
  | .rtu p   => (s.port? p).any (·.isOpen)

/-- The sink ids of the sources there are (R41): the connections of each listener in turn, then the ports. -/
def State.sinks (s : State) : List SinkId :=
  (s.listeners.zipIdx.flatMap fun li => (List.range li.1.conns.length).map (.tcp li.2)) ++
    (List.range s.ports.length).map .rtu

/-- The number of open sources (R226). -/
def State.openSources (s : State) : Nat := s.sinks.countP s.openOf

/-- One outstanding request per source (R226), the queue within its capacity (R40), and every request in the block has its reader
waiting for it, unless that reader has closed (R218, R219), which it does only after `close = 1`. -/
structure State.OneOutstanding (s : State) : Prop where
  once    : ∀ sink, s.outstanding sink ≤ 1
  queued  : ∀ r ∈ s.queue, s.awaited r.sink = some r ∨ s.sourceClosed r.sink = true
  writing : ∀ bytes sink, s.dstate = .write bytes sink → (s.awaited sink).isSome = true ∨ s.sourceClosed sink = true
  live    : s.close = false → ∀ r ∈ s.queue, s.awaited r.sink = some r
  bounded : s.queue.length ≤ s.cfg.channelDepth

/-- What the lifecycle promises: the close signal is set exactly from `shutdown()` on (R27, R276); before `start()` nothing runs (R34,
R271); the dispatcher leaves its loop only on the close signal (R192); at `STOPPED` every reader and accept unit is closed (R276). -/
structure State.LifecycleWf (s : State) : Prop where
  closeIff : s.close = true ↔ s.life = .shutdown ∨ s.life = .stopped
  config   : s.life = .config → s.dstate = .off ∧ s.queue = [] ∧
               (∀ li ∈ s.listeners, li.acc = .off ∧ li.conns = []) ∧ ∀ sp ∈ s.ports, sp.rstate = .off
  exited   : s.dstate = .exit → s.close = true
  stopped  : s.life = .stopped → s.readersClosed = true ∧ ∀ li ∈ s.listeners, li.acc = .closed ∨ li.acc = .error

/-- All of them, and the bank in its canonical form: what every step keeps. -/
structure State.Sound (s : State) : Prop where
  bank      : s.bank.wf = true
  sources   : s.SourcesWf
  requests  : s.OneOutstanding
  lifecycle : s.LifecycleWf

/-- The end of a run (R278). -/
def State.ended (s : State) : Prop :=
  s.life = .stopped ∧ s.dstate = .exit ∧ s.readersClosed = true ∧
  (∀ li ∈ s.listeners, li.acc = .closed ∨ li.acc = .error) ∧ s.fault = none

/-- What a source has been sent, `out(s)` (R41): the observable output (R264); `[]` for a source that is not there. -/
def State.outOf (s : State) : SinkId → List (List Byte)
  | .tcp l n => ((s.conn? l n).map (·.out)).getD []
  | .rtu p   => ((s.port? p).map (·.out)).getD []

/-- Instructions executed one after another by `exec`, up to the first that stops. -/
def execAll : List Instr → State → Out
  | [],      s => .next s
  | i :: is, s => match exec i s with
    | .next t    => execAll is t
    | .fault f   => .fault f
    | .refused r => .refused r

/-- Moves taken one after another by `runMove`, up to the first that stops. -/
def runMoves : List Move → State → Out
  | [],      s => .next s
  | m :: ms, s => match runMove m s with
    | .next t    => runMoves ms t
    | .fault f   => .fault f
    | .refused r => .refused r

end Sys2Proof.Machine
end

