-- ==== Sys2Proof/Certificates/Slice0/Obligations.lean ====
section
/-! DEFINITION. The statements for the provers, `Obligations.*`, and before them the words they share, `Spec.*`, written from the
rules and not from the meanings: the CRC loop of R112, what a request's answer does to the state, and what a step does to the sources.

`exec i s = .next t` says that the instruction completes, for every state and operands that meet the hypotheses; `t` written as an
update of `s` says its frame: every field of the state that is not named keeps its value. The field `result` is the command
port's (log entry 10): what an instruction reports stands there. The bank and the function table are the host's before `start()`
and the dispatcher's from then on (R190, R262), so a command or request that reaches them completes before `start()`, or as the
dispatcher's own step for the request it takes next, and else waits (log entry 10). -/

namespace Sys2Proof.Spec

open Sys2Proof.Machine

/-- One of the eight shift steps of R112, as it is written there. -/
def shiftStep (c : Word) : Word := if c &&& 1#16 = 1#16 then (c >>> 1) ^^^ 0xA001#16 else c >>> 1

/-- The loop of R112: `c <- crc ^ zext_16(b)`, then the shift step 8 times. -/
def crcByte (c : Word) (b : Byte) : Word := Nat.repeat shiftStep 8 (c ^^^ b.setWidth 16)

/-- Bit `i` of a packed byte string (R63). -/
def bitOf (bytes : List Byte) (i : Nat) : Bool := (bytes.getD (i / 8) 0#8).getLsbD (i % 8)

/-- What the handler of a request answers (R193): IllegalFunction for an empty slot, else what the slot's handler answers. -/
def handling (s : State) (f : Frame) : HandlerResult :=
  match s.slot f.function with
  | none   => ⟨[], 1#8, s.bank⟩
  | some h => runHandler s.cfg h s.bank f

/-- The response to a request (R90, R178, R179): its header and function byte with the payload; or, for an exception code other than 0, the
function byte with its high bit set, and `[e]` as Data. -/
def response (f : Frame) (r : HandlerResult) : Frame :=
  if r.exc = 0#8 then f.header.frame f.function r.payload else f.header.frame (f.function ||| 0x80#8) [r.exc]

/-- Whether a frame can be serialized (R175): a TCP frame's `len(Data) + 2` fits the 16-bit Length field. -/
def fits : Frame → Bool
  | .rtu _ => true
  | .tcp f => decide (f.data.length + 2 ≤ 65535)

/-- The bytes of a frame on its transport (R171, R175, R177). -/
def wire : Frame → List Byte
  | .rtu f =>
    let c := crcOf (f.address :: f.function :: f.data)
    f.address :: f.function :: f.data ++ [loByte c, hiByte c]
  | .tcp f =>
    be16 f.txn ++ be16 f.proto ++ be16 (BitVec.ofNat 16 (f.data.length + 2)) ++ [f.device, f.function] ++ f.data

/-- The state after HANDLE of a request with frame `f` (R193), its response being serialized: the bank is the handler's, and for RTU the CRC
register holds the response's CRC (R171). -/
def handled (s : State) (f : Frame) : State :=
  match response f (handling s f) with
  | .rtu q => { s with bank := (handling s f).bank, crc := crcOf (q.address :: q.function :: q.data), crcLoaded := true }
  | .tcp _ => { s with bank := (handling s f).bank }

/-- The dispatcher's request arm (R192 (a)) for the request `req`, with `rest` behind it. -/
def taken (s : State) (req : Request) (rest : List Request) : State :=
  { handled s req.frame with
    queue := rest
    dstate := .write (wire (response req.frame (handling s req.frame))) req.sink }

/-- That the step from `s` to `t` is the dispatcher's request arm, as far as bank, queue and dispatcher show it. -/
def Takes (s t : State) : Prop :=
  ∃ req rest, s.dstate = .idle ∧ s.queue = req :: rest ∧ t.queue = rest ∧ t.bank = (handling s req.frame).bank ∧
    t.dstate = .write (wire (response req.frame (handling s req.frame))) req.sink

/-- What the command port shows of a request handled: the handler's payload and exception code, and the response. -/
def shown (s : State) (f : Frame) : Result :=
  .handled (handling s f).payload (handling s f).exc (response f (handling s f))

/-- The request instructions with the function byte of each (R93), and that of any other code. -/
def requests (hdr : Header) (data : List Byte) (fc : Byte) : List (Instr × Byte) :=
  [(.readCoils hdr data, 0x01#8), (.readDiscreteInputs hdr data, 0x02#8), (.readHoldingRegisters hdr data, 0x03#8),
   (.readInputRegisters hdr data, 0x04#8), (.writeSingleCoil hdr data, 0x05#8), (.writeSingleRegister hdr data, 0x06#8),
   (.writeMultipleCoils hdr data, 0x0F#8), (.writeMultipleRegisters hdr data, 0x10#8), (.unknownFunction fc hdr data, fc)]

/-- A handler that ends in an exception (R14): no payload. -/
def failed (e : Byte) (bank : Bank) : HandlerResult := ⟨[], e, bank⟩

/-- The rule of the two bit reads (R128, R129), for the bank call that the function code makes. -/
def readBits (p : Params) (bank : Bank) (call : Bank → Word → Word → BitsRead Bank) (data : List Byte) : HandlerResult :=
  let register := beWord data 0
  let count := beWord data 2
  if data.length < 4 then failed 3#8 bank
  else if p.countLimits = .enforceUpper ∧ 2000 < count.toNat then failed 3#8 bank
  else if 65536 < register.toNat + count.toNat then failed 2#8 bank
  else
    let r := call bank register count
    if r.exc ≠ 0#8 then failed r.exc r.bank
    else if count = 0#16 ∧ p.emptyReadForm = .empty then ⟨[], 0#8, r.bank⟩
    else ⟨BitVec.ofNat 8 ((packBits r.bits).length % 256) :: packBits r.bits, 0#8, r.bank⟩

/-- The rule of the two register reads (R130, R131), for the handler `h` and the bank call that its function code makes: the answer has the
words `w[0]` to `w[count-1]`, and the free value of log entry 27 for one that the call did not return. -/
def readWords (p : Params) (h : HandlerId) (bank : Bank) (call : Bank → Word → Word → WordsRead Bank) (data : List Byte) : HandlerResult :=
  let register := beWord data 0
  let count := beWord data 2
  if data.length < 4 then failed 3#8 bank
  else if p.countLimits = .enforceUpper ∧ 125 < count.toNat then failed 3#8 bank
  else if 65536 < register.toNat + count.toNat then failed 2#8 bank
  else
    let r := call bank register count
    if r.exc ≠ 0#8 then failed r.exc r.bank
    else if count = 0#16 ∧ p.emptyReadForm = .empty then ⟨[], 0#8, r.bank⟩
    else
      let w := fun i => r.words.getD i (Config.absentWord h bank data i)
      ⟨BitVec.ofNat 8 (2 * count.toNat % 256) :: (List.range count.toNat).flatMap fun i => be16 (w i), 0#8, r.bank⟩

/-- The end of every write (R132 to R135): a bank exception is passed through, else the first four bytes of Data are echoed (R89). -/
def echoed (r : Written Bank) (data : List Byte) : HandlerResult :=
  if r.exc ≠ 0#8 then failed r.exc r.bank else ⟨data.take 4, 0#8, r.bank⟩

/-- The four capability calls that read (R150). -/
def isRead : BankCall → Bool
  | .readCoils _ _            => true
  | .readDiscreteInputs _ _   => true
  | .readHoldingRegisters _ _ => true
  | .readInputRegisters _ _   => true
  | _                         => false

/-- What a step does to the sources: it changes the source `k` as `f` or `g` says and no other, and no accept unit. -/
structure SourceStep (s t : State) (k : SinkId) (f : Conn → Conn) (g : SerialPort → SerialPort) : Prop where
  conns   : ∀ l n, t.conn? l n = (s.conn? l n).map fun c => if k = .tcp l n then f c else c
  ports   : ∀ p, t.port? p = (s.port? p).map fun sp => if k = .rtu p then g sp else sp
  accepts : ∀ l, (t.listener? l).map (·.acc) = (s.listener? l).map (·.acc)

/-- A move that completes by changing the connection `TCP(l, n)` to `c` and nothing else. -/
def ConnMove (m : Move) (s : State) (l n : Nat) (c : Conn) : Prop :=
  ∃ t, runMove m s = .next t ∧ t = { s with listeners := t.listeners } ∧ SourceStep s t (.tcp l n) (fun _ => c) id

/-- A move that completes by changing the port `RTU(p)` to `sp` and nothing else. -/
def PortMove (m : Move) (s : State) (p : Nat) (sp : SerialPort) : Prop :=
  ∃ t, runMove m s = .next t ∧ t = { s with ports := t.ports } ∧ SourceStep s t (.rtu p) id (fun _ => sp)

/-- The push arm of an enqueue step (R217 (a), R225): the request stands last in the queue and its reader waits for it. -/
def Pushed (s t : State) (req : Request) : Prop :=
  t = { s with queue := s.queue ++ [req], listeners := t.listeners, ports := t.ports, draws := t.draws, result := t.result } ∧
  SourceStep s t req.sink (fun c => { c with rstate := .wait req }) (fun sp => { sp with rstate := .wait req })

/-- The abandon arm (R217 (b), R225): the source is closed and the request dropped. -/
def Abandoned (s t : State) (k : SinkId) : Prop :=
  t = { s with listeners := t.listeners, ports := t.ports, draws := t.draws, result := t.result } ∧
  SourceStep s t k (fun c => { c with rstate := .closed, isOpen := false, inp := [] })
    (fun sp => { sp with rstate := .closed, isOpen := false })

/-- Two states that differ at most in a CRC register that nothing has written since reset. -/
def SameButStaleCrc (s t : State) : Prop := s = t ∨ (s.crcLoaded = false ∧ t = { s with crc := t.crc })

/-- Two outcomes that differ at most so. -/
def SameOutcome : Out → Out → Prop
  | .next s,    .next t    => SameButStaleCrc s t
  | .fault f,   .fault g   => f = g
  | .refused f, .refused g => f = g
  | _,          _          => False

end Sys2Proof.Spec

open Sys2Proof Sys2Proof.Machine

/-! Encoding. -/

/-- Decoding the encoding of a well-formed instruction gives it back, every operand at every value: no bit of an encoding is dropped
(R82, R90, R102; the operand bytes of commands are the model's layout, log entry 11). -/
def Obligations.DecodeOfEncode : Prop :=
  ∀ i : Instr, i.wf = true → decode (encode i).1 (encode i).2 = .ok i

/-- Whatever decodes is well-formed, and its encoding is the bytes it came from; only the bytes after a reserved selector are dropped
(R103; log entry 11). -/
def Obligations.EncodeOfDecode : Prop :=
  ∀ (port : Port) (b : List Byte) (i : Instr), decode port b = .ok i →
    i.wf = true ∧
    (encode i = (port, b) ∨ ∃ op rest, port = .command ∧ b = op :: rest ∧ i = .reservedOpsel op)

/-- The function code map of R93 at reset and R94: the whole function byte selects the row; and words of the command port and of a
response written out from R102 and R90, the operand bytes in the model's layout (log entry 11). -/
def Obligations.EncodedWordsDecodeToTheirInstructions : Prop :=
  (∀ (hdr : Header) (fc : Byte) (data : List Byte),
    decode (.pdu hdr) (fc :: data) = .ok (
      if fc = 1#8 then .readCoils hdr data
      else if fc = 2#8 then .readDiscreteInputs hdr data
      else if fc = 3#8 then .readHoldingRegisters hdr data
      else if fc = 4#8 then .readInputRegisters hdr data
      else if fc = 5#8 then .writeSingleCoil hdr data
      else if fc = 6#8 then .writeSingleRegister hdr data
      else if fc = 15#8 then .writeMultipleCoils hdr data
      else if fc = 16#8 then .writeMultipleRegisters hdr data
      else .unknownFunction fc hdr data)) ∧
  decode (.response (.rtu 1#8)) [0x83#8, 0x02#8] = .ok (.exceptionResponse (.rtu 1#8) 0x83#8 0x02#8) ∧
  decode .command [0x02#8, 0xAB#8] = .ok (.crcUpdate 0xAB#8) ∧
  decode .command [0x11#8, 0x01#8, 0x09#8, 0xFF#8] = .ok (.bitsUnpack [0xFF#8] 0x0109#16) ∧
  decode .command [0x21#8, 0x01#8, 0x83#8, 0x02#8] = .ok (.rtuSerialize ⟨0x01#8, 0x83#8, [0x02#8]⟩) ∧
  decode .command [0x32#8, 0x00#8, 0x00#8, 0x00#8, 0x00#8, 0x05#8, 0xAA#8] = .ok (.route [0xAA#8] (.rtu 5)) ∧
  decode .command [0x33#8, 0x03#8, 0x00#8] = .ok (.fnSet 0x03#8 none) ∧
  decode .command [0x34#8] = .ok .close ∧
  decode .command [0x45#8, 0xFF#8, 0xFE#8, 0x12#8, 0x34#8] = .ok (.bankWriteSingleRegister 0xFFFE#16 0x1234#16) ∧
  decode .command [0x05#8] = .ok (.reservedOpsel 0x05#8)

/-- R103: a selector code not in the table of R102 names no operation, and a command with it is refused, whatever follows it. -/
def Obligations.ReservedSelectorIsRefused : Prop :=
  ∀ (op : Byte) (rest : List Byte) (s : State),
    op.toNat ∉ [0x01, 0x02, 0x03, 0x04, 0x10, 0x11, 0x20, 0x21, 0x22, 0x23, 0x24, 0x25, 0x30, 0x31, 0x32, 0x33, 0x34, 0x35,
      0x40, 0x41, 0x42, 0x43, 0x44, 0x45, 0x46, 0x47] →
    decode .command (op :: rest) = .ok (.reservedOpsel op) ∧
    exec (.reservedOpsel op) s = .refused (.reservedOpsel op)

/-! The CRC generator. -/

/-- R111 and R112: CRC_INIT loads 0xFFFF; CRC_UPDATE folds one byte by the loop of R112, and faults, writing nothing else, when nothing has
written `crc` since reset. -/
def Obligations.CrcInitAndUpdate : Prop :=
  (∀ s : State, exec .crcInit s = .next { s with crc := 0xFFFF#16, crcLoaded := true, result := .none }) ∧
  (∀ (b : Byte) (s : State), s.crcLoaded = true →
    exec (.crcUpdate b) s = .next { s with crc := Spec.crcByte s.crc b, result := .none }) ∧
  (∀ (b : Byte) (s : State), s.crcLoaded = false →
    exec (.crcUpdate b) s = .next { s with fault := some .crcUninitialised })

/-- R113: CRC16 of a string is CRC_INIT and then CRC_UPDATE of each byte in index order; the register holds the result. -/
def Obligations.Crc16IsInitThenUpdates : Prop :=
  ∀ (buf : List Byte) (s : State),
    exec (.crc16 buf) s = .next { s with crc := crcOf buf, crcLoaded := true, result := .crc (crcOf buf) } ∧
    execAll (.crcInit :: buf.map .crcUpdate) s = .next { s with crc := crcOf buf, crcLoaded := true, result := .none }

/-- R114: CRC_CHECK compares the CRC of the prefix with the trailing two bytes, low byte first, and answers 0 for fewer than two
bytes. What it leaves in the CRC register is left open here (log entry 4). -/
def Obligations.CrcCheckComparesTrailer : Prop :=
  ∀ (adu : List Byte) (s : State), ∃ (c : Word) (loaded : Bool),
    exec (.crcCheck adu) s = .next { s with
      crc := c
      crcLoaded := loaded
      result := .crcOk (decide (2 ≤ adu.length ∧
        crcOf (adu.take (adu.length - 2)) = ofHiLo (adu.getD (adu.length - 1) 0#8) (adu.getD (adu.length - 2) 0#8))) }

/-- R116 and R117: a string followed by its CRC, low byte first, has CRC 0; and CRC_CHECK of at least two bytes answers 1 exactly when the
CRC of the whole string is 0. -/
def Obligations.CrcResidueIsZero : Prop :=
  (∀ b : List Byte, crcOf (b ++ [loByte (crcOf b), hiByte (crcOf b)]) = 0#16) ∧
  (∀ (adu : List Byte) (s : State), 2 ≤ adu.length → ∃ t, exec (.crcCheck adu) s = .next t ∧
    t.result = .crcOk (decide (crcOf adu = 0#16)))

/-! The bit codec. -/

/-- R122 and R123: bit `i` stands in byte `i div 8` at position `i mod 8`; packing gives `ceil(n/8)` bytes with padding bits 0; unpacking takes
`n` bits, ignores the rest, and answers `Err(SHORT)` for too few bytes. -/
def Obligations.BitCodecPlacesBitIOfByteIDivEight : Prop :=
  (∀ (bits : List Bool) (s : State), ∃ out : List Byte,
    exec (.bitsPack bits) s = .next { s with result := .bytes out } ∧
    out.length = (bits.length + 7) / 8 ∧
    ∀ i < 8 * out.length, Spec.bitOf out i = bits.getD i false) ∧
  (∀ (bytes : List Byte) (n : Word) (s : State),
    exec (.bitsUnpack bytes n) s = .next { s with result := .unpacked (
      if bytes.length < (n.toNat + 7) / 8 then none else some ((List.range n.toNat).map (Spec.bitOf bytes))) })

/-- R124: unpacking what was packed gives it back, and packing what was unpacked gives the bytes back when the padding bits are 0. -/
def Obligations.BitCodecRoundTrips : Prop :=
  (∀ (bits : List Bool) (s : State), bits.length ≤ 65535 → ∃ out t u,
    exec (.bitsPack bits) s = .next t ∧ t.result = .bytes out ∧
    exec (.bitsUnpack out (BitVec.ofNat 16 bits.length)) t = .next u ∧ u.result = .unpacked (some bits)) ∧
  (∀ (bytes : List Byte) (n : Word) (s : State), bytes.length = (n.toNat + 7) / 8 →
    (∀ i, n.toNat ≤ i → i < 8 * bytes.length → Spec.bitOf bytes i = false) → ∃ bits t u,
    exec (.bitsUnpack bytes n) s = .next t ∧ t.result = .unpacked (some bits) ∧
    exec (.bitsPack bits) t = .next u ∧ u.result = .bytes bytes)

/-! Framers. -/

/-- R170 and R174: what RTU_PARSE and TCP_PARSE answer, with the checks in their order. What RTU_PARSE leaves in the CRC register is left open
here (log entry 4). -/
def Obligations.ParsersCheckLengthThenContent : Prop :=
  (∀ (b : List Byte) (s : State), ∃ (c : Word) (loaded : Bool),
    exec (.rtuParse b) s = .next { s with
      crc := c
      crcLoaded := loaded
      result := .parsed (
        if b.length < 4 then .err .short
        else if crcOf (b.take (b.length - 2)) ≠ ofHiLo (b.getD (b.length - 1) 0#8) (b.getD (b.length - 2) 0#8) then
          .err .crcMismatch
        else .ok (.rtu ⟨b.getD 0 0#8, b.getD 1 0#8, (b.take (b.length - 2)).drop 2⟩)) }) ∧
  (∀ (b : List Byte) (s : State),
    exec (.tcpParse b) s = .next { s with
      result := .parsed (
        if b.length < 8 then .err .short
        else if s.cfg.tcpLengthCheck = .strict ∧ (beWord b 4).toNat ≠ b.length - 6 then .err .lengthMismatch
        else .ok (.tcp ⟨beWord b 0, beWord b 2, b.getD 6 0#8, b.getD 7 0#8, b.drop 8⟩)) })

/-- R171 and R175: the bytes of RTU_SERIALIZE, with the CRC low byte first and left in the register, and of TCP_SERIALIZE, which faults when Data
is longer than 65533 bytes. -/
def Obligations.SerializersLayOutTheFrame : Prop :=
  (∀ (f : RtuFrame) (s : State),
    let c := crcOf (f.address :: f.function :: f.data)
    exec (.rtuSerialize f) s = .next { s with
      crc := c
      crcLoaded := true
      result := .bytes (f.address :: f.function :: f.data ++ [loByte c, hiByte c]) }) ∧
  (∀ (f : TcpFrame) (s : State), f.data.length + 2 ≤ 65535 →
    exec (.tcpSerialize f) s = .next { s with
      result := .bytes ([hiByte f.txn, loByte f.txn, hiByte f.proto, loByte f.proto] ++
        be16 (BitVec.ofNat 16 (f.data.length + 2)) ++ [f.device, f.function] ++ f.data) }) ∧
  (∀ (f : TcpFrame) (s : State), 65535 < f.data.length + 2 →
    exec (.tcpSerialize f) s = .next { s with fault := some .tcpResponseTooLong })

/-- R172: parsing what RTU_SERIALIZE gave answers the frame, and serializing what RTU_PARSE answered gives the bytes. -/
def Obligations.RtuFramerRoundTrips : Prop :=
  (∀ (f : RtuFrame) (s : State), ∃ b t u,
    exec (.rtuSerialize f) s = .next t ∧ t.result = .bytes b ∧
    exec (.rtuParse b) t = .next u ∧ u.result = .parsed (.ok (.rtu f))) ∧
  (∀ (b : List Byte) (f : RtuFrame) (s t : State),
    exec (.rtuParse b) s = .next t → t.result = .parsed (.ok (.rtu f)) →
    ∃ u, exec (.rtuSerialize f) t = .next u ∧ u.result = .bytes b)

/-- R176: the TCP round trips, under both settings one way and under `STRICT` the other; under `TOLERANT` a wrong Length field parses and
the serialized frame differs from the bytes in bytes 4 and 5. -/
def Obligations.TcpFramerRoundTrips : Prop :=
  (∀ (f : TcpFrame) (s : State), f.data.length ≤ 65533 → ∃ b t u,
    exec (.tcpSerialize f) s = .next t ∧ t.result = .bytes b ∧
    exec (.tcpParse b) t = .next u ∧ u.result = .parsed (.ok (.tcp f))) ∧
  (∀ (b : List Byte) (f : TcpFrame) (s t : State), s.cfg.tcpLengthCheck = .strict →
    exec (.tcpParse b) s = .next t → t.result = .parsed (.ok (.tcp f)) →
    ∃ u, exec (.tcpSerialize f) t = .next u ∧ u.result = .bytes b) ∧
  (∀ (b : List Byte) (s : State), s.cfg.tcpLengthCheck = .tolerant → 8 ≤ b.length → b.length ≤ 65541 →
    (beWord b 4).toNat ≠ b.length - 6 → ∃ f b' t u,
    exec (.tcpParse b) s = .next t ∧ t.result = .parsed (.ok (.tcp f)) ∧
    exec (.tcpSerialize f) t = .next u ∧ u.result = .bytes b' ∧
    b'.take 4 = b.take 4 ∧ b'.drop 6 = b.drop 6 ∧ (b'.take 6).drop 4 ≠ (b.take 6).drop 4)

/-- R90, R178 and R179: EXC_INJECT, RESP_BUILD and the exception response form keep the transport header; an exception sets the high bit of the
function byte, discards the payload and has `[e]` as Data. That the exception response form is an instruction which shows the built frame
on the command port (the last clause) is the model's inference, log entry 14. -/
def Obligations.ResponsesKeepTheTransportHeader : Prop :=
  (∀ (a fn e : Byte) (data : List Byte) (s : State),
    exec (.excInject (.rtu ⟨a, fn, data⟩) e) s = .next { s with result := .frame (.rtu ⟨a, fn ||| 0x80#8, [e]⟩) }) ∧
  (∀ (x p : Word) (d fn e : Byte) (data : List Byte) (s : State),
    exec (.excInject (.tcp ⟨x, p, d, fn, data⟩) e) s = .next { s with result := .frame (.tcp ⟨x, p, d, fn ||| 0x80#8, [e]⟩) }) ∧
  (∀ (a fn e : Byte) (data payload : List Byte) (s : State),
    exec (.respBuild (.rtu ⟨a, fn, data⟩) payload e) s = .next { s with result := .frame (
      if e = 0#8 then .rtu ⟨a, fn, payload⟩ else .rtu ⟨a, fn ||| 0x80#8, [e]⟩) }) ∧
  (∀ (x p : Word) (d fn e : Byte) (data payload : List Byte) (s : State),
    exec (.respBuild (.tcp ⟨x, p, d, fn, data⟩) payload e) s = .next { s with result := .frame (
      if e = 0#8 then .tcp ⟨x, p, d, fn, payload⟩ else .tcp ⟨x, p, d, fn ||| 0x80#8, [e]⟩) }) ∧
  (∀ (hdr : Header) (fn e : Byte) (s : State),
    exec (.exceptionResponse hdr fn e) s = .next { s with result := .frame (hdr.frame (fn ||| 0x80#8) [e]) })

/-! The register bank. -/

/-- R151 to R154: the four reads of the default bank answer the entries of the range, or IllegalDataAddress when it passes 65535, and leave
the bank as it was. -/
def Obligations.BankReadsAnswerTheRange : Prop :=
  ∀ (a : Arrays) (start count : Word),
    Bank.readCoils (.default a) start count = ⟨
      if 65536 < start.toNat + count.toNat then [] else (List.range count.toNat).map fun i => Memory.read a.coils (start.toNat + i),
      if 65536 < start.toNat + count.toNat then 2#8 else 0#8, .default a⟩ ∧
    Bank.readDiscreteInputs (.default a) start count = ⟨
      if 65536 < start.toNat + count.toNat then []
      else (List.range count.toNat).map fun i => Memory.read a.discreteInputs (start.toNat + i),
      if 65536 < start.toNat + count.toNat then 2#8 else 0#8, .default a⟩ ∧
    Bank.readHoldingRegisters (.default a) start count = ⟨
      if 65536 < start.toNat + count.toNat then []
      else (List.range count.toNat).map fun i => Memory.read a.holdingRegisters (start.toNat + i),
      if 65536 < start.toNat + count.toNat then 2#8 else 0#8, .default a⟩ ∧
    Bank.readInputRegisters (.default a) start count = ⟨
      if 65536 < start.toNat + count.toNat then []
      else (List.range count.toNat).map fun i => Memory.read a.inputRegisters (start.toNat + i),
      if 65536 < start.toNat + count.toNat then 2#8 else 0#8, .default a⟩

/-- R155 and R156: a single write of the default bank writes the one entry, raises no exception, and leaves every other entry of every
space. -/
def Obligations.BankSingleWritesWriteOneEntry : Prop :=
  ∀ (a : Arrays) (addr : Word), (Bank.default a).wf = true →
    (∀ v : Bool, ∃ m, Bank.writeSingleCoil (.default a) addr v = ⟨0#8, .default { a with coils := m }⟩ ∧
      ∀ x, Memory.read m x = if x = addr.toNat then v else Memory.read a.coils x) ∧
    (∀ v : Word, ∃ m, Bank.writeSingleRegister (.default a) addr v = ⟨0#8, .default { a with holdingRegisters := m }⟩ ∧
      ∀ x, Memory.read m x = if x = addr.toNat then v else Memory.read a.holdingRegisters x)

/-- R157 and R158: a multiple write of the default bank writes the entries of the range and no other, or, when the range passes 65535, writes
nothing and answers IllegalDataAddress. -/
def Obligations.BankMultipleWritesWriteTheRangeOrNothing : Prop :=
  ∀ (a : Arrays) (start : Word), (Bank.default a).wf = true →
    (∀ bits : List Bool, 65536 < start.toNat + bits.length →
      Bank.writeMultipleCoils (.default a) start bits = ⟨2#8, .default a⟩) ∧
    (∀ words : List Word, 65536 < start.toNat + words.length →
      Bank.writeMultipleRegisters (.default a) start words = ⟨2#8, .default a⟩) ∧
    (∀ bits : List Bool, start.toNat + bits.length ≤ 65536 → ∃ m,
      Bank.writeMultipleCoils (.default a) start bits = ⟨0#8, .default { a with coils := m }⟩ ∧
      ∀ x, Memory.read m x = if start.toNat ≤ x ∧ x < start.toNat + bits.length
        then bits.getD (x - start.toNat) false else Memory.read a.coils x) ∧
    (∀ words : List Word, start.toNat + words.length ≤ 65536 → ∃ m,
      Bank.writeMultipleRegisters (.default a) start words = ⟨0#8, .default { a with holdingRegisters := m }⟩ ∧
      ∀ x, Memory.read m x = if start.toNat ≤ x ∧ x < start.toNat + words.length
        then words.getD (x - start.toNat) 0#16 else Memory.read a.holdingRegisters x)

/-- R161: what a multiple write of the default bank stored, a read of the range, or of any part of it, answers. A part, because a `count` of
65536 does not fit a read's 16-bit operand. -/
def Obligations.BankReadAfterWrite : Prop :=
  ∀ (a : Arrays) (start : Word), (Bank.default a).wf = true →
    (∀ words : List Word, start.toNat + words.length ≤ 65536 →
      ∀ (i : Nat) (x n : Word), x.toNat = start.toNat + i → i + n.toNat ≤ words.length →
        let b := (Bank.writeMultipleRegisters (.default a) start words).bank
        b.readHoldingRegisters x n = ⟨(words.drop i).take n.toNat, 0#8, b⟩) ∧
    (∀ bits : List Bool, start.toNat + bits.length ≤ 65536 →
      ∀ (i : Nat) (x n : Word), x.toNat = start.toNat + i → i + n.toNat ≤ bits.length →
        let b := (Bank.writeMultipleCoils (.default a) start bits).bank
        b.readCoils x n = ⟨(bits.drop i).take n.toNat, 0#8, b⟩)

/-- The contract of R150 and R162, of the default bank in its canonical form and of every custom bank: a read of `(s, 0)` answers nothing with
Success, and a read of exactly the range of a multiple write, with any reads between them and no write, answers what was written, whatever
code the write answered (R161). All else of a custom bank is its own functions', any exception code included: they are free values, and
the form of a custom bank is the model's choice (log entry 9). -/
def Obligations.EveryBankMeetsItsContract : Prop :=
  (∀ (b : Bank) (start : Word),
    (b.readCoils start 0#16).bits = [] ∧ (b.readCoils start 0#16).exc = 0#8 ∧
    (b.readDiscreteInputs start 0#16).bits = [] ∧ (b.readDiscreteInputs start 0#16).exc = 0#8 ∧
    (b.readHoldingRegisters start 0#16).words = [] ∧ (b.readHoldingRegisters start 0#16).exc = 0#8 ∧
    (b.readInputRegisters start 0#16).words = [] ∧ (b.readInputRegisters start 0#16).exc = 0#8) ∧
  (∀ (b : Bank) (start count : Word) (reads : List BankCall), b.wf = true → (∀ c ∈ reads, Spec.isRead c = true) →
    start.toNat + count.toNat ≤ 65536 →
    (∀ bits : List Bool, bits.length = count.toNat →
      let r := ((b.writeMultipleCoils start bits).bank.calls reads).readCoils start count
      r.bits = bits ∧ r.exc = 0#8) ∧
    (∀ words : List Word, words.length = count.toNat →
      let r := ((b.writeMultipleRegisters start words).bank.calls reads).readHoldingRegisters start count
      r.words = words ∧ r.exc = 0#8)) ∧
  (∀ (st : Nat) (last : Option LastWrite) (start count : Word), count ≠ 0#16 →
    (let own := Config.customReadDiscreteInputs st start count
     Bank.readDiscreteInputs (.custom st last) start count = ⟨own.bits, own.exc, .custom own.bank last⟩) ∧
    (let own := Config.customReadInputRegisters st start count
     Bank.readInputRegisters (.custom st last) start count = ⟨own.words, own.exc, .custom own.bank last⟩) ∧
    ((∀ bits, last = some (.coils start bits) → bits.length ≠ count.toNat) →
      let own := Config.customReadCoils st start count
      Bank.readCoils (.custom st last) start count = ⟨own.bits, own.exc, .custom own.bank last⟩) ∧
    ((∀ words, last = some (.registers start words) → words.length ≠ count.toNat) →
      let own := Config.customReadHoldingRegisters st start count
      Bank.readHoldingRegisters (.custom st last) start count = ⟨own.words, own.exc, .custom own.bank last⟩)) ∧
  (∀ (st : Nat) (last : Option LastWrite) (start count : Word),
    (Bank.readCoils (.custom st last) start count).bank = .custom (Config.customReadCoils st start count).bank last ∧
    (Bank.readDiscreteInputs (.custom st last) start count).bank =
      .custom (Config.customReadDiscreteInputs st start count).bank last ∧
    (Bank.readHoldingRegisters (.custom st last) start count).bank =
      .custom (Config.customReadHoldingRegisters st start count).bank last ∧
    (Bank.readInputRegisters (.custom st last) start count).bank =
      .custom (Config.customReadInputRegisters st start count).bank last) ∧
  (∀ (st : Nat) (last : Option LastWrite) (start : Word),
    (∀ v : Bool, let own := Config.customWriteSingleCoil st start v
      Bank.writeSingleCoil (.custom st last) start v = ⟨own.exc, .custom own.bank none⟩) ∧
    (∀ v : Word, let own := Config.customWriteSingleRegister st start v
      Bank.writeSingleRegister (.custom st last) start v = ⟨own.exc, .custom own.bank none⟩) ∧
    (∀ bits : List Bool, let own := Config.customWriteMultipleCoils st start bits
      Bank.writeMultipleCoils (.custom st last) start bits = ⟨own.exc, .custom own.bank
        (if start.toNat + bits.length ≤ 65536 then some (.coils start bits) else none)⟩) ∧
    (∀ words : List Word, let own := Config.customWriteMultipleRegisters st start words
      Bank.writeMultipleRegisters (.custom st last) start words = ⟨own.exc, .custom own.bank
        (if start.toNat + words.length ≤ 65536 then some (.registers start words) else none)⟩))

/-- The eight bank commands, with any bank. Before `start()` each completes with what its capability call answers, and makes the bank of
that answer the bank; from `start()` on the bank is the dispatcher's alone (R190, R262) and each waits. That the port takes them before
`start()` is the model's choice (log entry 10), and a custom bank's form too (log entry 9). -/
def Obligations.BankCommandsMakeTheirCall : Prop :=
  (∀ s : State, s.life = .config →
    (∀ start count : Word,
      (let r := s.bank.readCoils start count
       exec (.bankReadCoils start count) s = .next { s with bank := r.bank, result := .bankBits r.bits r.exc }) ∧
      (let r := s.bank.readDiscreteInputs start count
       exec (.bankReadDiscreteInputs start count) s = .next { s with bank := r.bank, result := .bankBits r.bits r.exc }) ∧
      (let r := s.bank.readHoldingRegisters start count
       exec (.bankReadHoldingRegisters start count) s = .next { s with bank := r.bank, result := .bankWords r.words r.exc }) ∧
      (let r := s.bank.readInputRegisters start count
       exec (.bankReadInputRegisters start count) s = .next { s with bank := r.bank, result := .bankWords r.words r.exc })) ∧
    (∀ (addr : Word) (v : Bool), let r := s.bank.writeSingleCoil addr v
      exec (.bankWriteSingleCoil addr v) s = .next { s with bank := r.bank, result := .bankExc r.exc }) ∧
    (∀ addr v : Word, let r := s.bank.writeSingleRegister addr v
      exec (.bankWriteSingleRegister addr v) s = .next { s with bank := r.bank, result := .bankExc r.exc }) ∧
    (∀ (start : Word) (bits : List Bool), let r := s.bank.writeMultipleCoils start bits
      exec (.bankWriteMultipleCoils start bits) s = .next { s with bank := r.bank, result := .bankExc r.exc }) ∧
    (∀ (start : Word) (words : List Word), let r := s.bank.writeMultipleRegisters start words
      exec (.bankWriteMultipleRegisters start words) s = .next { s with bank := r.bank, result := .bankExc r.exc })) ∧
  (∀ (s : State) (start count v : Word) (bit : Bool) (bits : List Bool) (words : List Word), s.life ≠ .config →
    ∀ i ∈ [Instr.bankReadCoils start count, .bankReadDiscreteInputs start count, .bankReadHoldingRegisters start count,
      .bankReadInputRegisters start count, .bankWriteSingleCoil start bit, .bankWriteSingleRegister start v,
      .bankWriteMultipleCoils start bits, .bankWriteMultipleRegisters start words],
    exec i s = .next { s with result := .waiting })

/-! Requests. -/

/-- R94 and R193, for the nine request instructions. Before `start()` each completes by the slot of its function byte, up to the response
frame, and changes only the bank and the command port. From then on it is the dispatcher's request arm, completing when the request the
dispatcher takes next has its very frame, and else it waits. That a request is an instruction of its own, and when, are the model's
choices (log entries 10, 12 and 13). -/
def Obligations.RequestsCompleteByTheirSlot : Prop :=
  ∀ (hdr : Header) (data : List Byte) (code : Byte), ∀ p ∈ Spec.requests hdr data code,
    let f := hdr.frame p.2 data
    (∀ s : State, s.life = .config →
      exec p.1 s = .next { s with bank := (Spec.handling s f).bank, result := Spec.shown s f }) ∧
    (∀ s : State, s.life = .config → s.slot p.2 = none →
      exec p.1 s = .next { s with result := .handled [] 1#8 (hdr.frame (p.2 ||| 0x80#8) [1#8]) }) ∧
    (∀ (s : State) (req : Request) (rest : List Request), s.life ≠ .config → s.dstate = .idle → s.queue = req :: rest →
      req.frame = f →
      exec p.1 s = .next (if Spec.fits (Spec.response f (Spec.handling s f)) = true
        then { Spec.taken s req rest with result := Spec.shown s f }
        else { s with fault := some .tcpResponseTooLong })) ∧
    (∀ s : State, s.life ≠ .config → (s.dstate ≠ .idle ∨ ∀ req ∈ s.queue.head?, req.frame ≠ f) →
      exec p.1 s = .next { s with result := .waiting })

/-- R128 and R129, with any bank: the answer of a bit read and every exception it raises, in the order of the checks. The bank after the call,
a call that answered an exception included, is the one the call returned (log entry 6), and a custom bank's bits are packed as many as
they are, as R128 writes it (log entries 9 and 27); that a request is an instruction of its own is log entry 12. -/
def Obligations.BitReadsFollowTheirRule : Prop :=
  ∀ (p : Params) (bank : Bank) (f : Frame),
    runHandler p .stdReadCoils bank f = Spec.readBits p bank Bank.readCoils f.data ∧
    runHandler p .stdReadDiscreteInputs bank f = Spec.readBits p bank Bank.readDiscreteInputs f.data

/-- R130 and R131, with any bank: the answer of a register read and every exception it raises, in the order of the checks. The bank after the
call is the one the call returned (log entry 6); exactly `count` words are written, whatever number a custom bank returns, one that it did
not return being a free value (log entries 9 and 27); that a request is an instruction of its own is log entry 12. -/
def Obligations.RegisterReadsFollowTheirRule : Prop :=
  ∀ (p : Params) (bank : Bank) (f : Frame),
    runHandler p .stdReadHoldingRegisters bank f = Spec.readWords p .stdReadHoldingRegisters bank Bank.readHoldingRegisters f.data ∧
    runHandler p .stdReadInputRegisters bank f = Spec.readWords p .stdReadInputRegisters bank Bank.readInputRegisters f.data

/-- R132 and R133, with any bank: a single write answers IllegalDataValue for short Data, else makes its bank call and echoes the bytes
received; any nonzero value sets a coil. The bank after a call that answered an exception is passed on (log entry 6); that a request is
an instruction of its own is log entry 12. -/
def Obligations.SingleWritesFollowTheirRule : Prop :=
  ∀ (p : Params) (bank : Bank) (f : Frame),
    runHandler p .stdWriteSingleCoil bank f = (
      if f.data.length < 4 then Spec.failed 3#8 bank
      else Spec.echoed (bank.writeSingleCoil (beWord f.data 0) (decide (beWord f.data 2 ≠ 0#16))) f.data) ∧
    runHandler p .stdWriteSingleRegister bank f = (
      if f.data.length < 4 then Spec.failed 3#8 bank
      else Spec.echoed (bank.writeSingleRegister (beWord f.data 0) (beWord f.data 2)) f.data)

/-- R134 and R135, with any bank: the checks of a multiple write in their order, the entries it takes from the payload, its bank call and
its echo; the byte count at `data[4]` is not compared with anything. The bank after a call that answered an exception is passed on (log
entry 6); that a request is an instruction of its own is log entry 12. -/
def Obligations.MultipleWritesFollowTheirRule : Prop :=
  ∀ (p : Params) (bank : Bank) (f : Frame),
    let register := beWord f.data 0
    let count := (beWord f.data 2).toNat
    runHandler p .stdWriteMultipleCoils bank f = (
      if f.data.length < 5 then Spec.failed 3#8 bank
      else if 65536 < register.toNat + count then Spec.failed 2#8 bank
      else if (f.data.drop 5).length < (count + 7) / 8 then Spec.failed 3#8 bank
      else Spec.echoed (bank.writeMultipleCoils register ((List.range count).map (Spec.bitOf (f.data.drop 5)))) f.data) ∧
    runHandler p .stdWriteMultipleRegisters bank f = (
      if f.data.length < 5 then Spec.failed 3#8 bank
      else if 65536 < register.toNat + count then Spec.failed 2#8 bank
      else if (f.data.drop 5).length ≠ 2 * count then Spec.failed 3#8 bank
      else Spec.echoed (bank.writeMultipleRegisters register
        ((List.range count).map fun i => beWord (f.data.drop 5) (2 * i))) f.data)

/-- Masters read back what they wrote (R73, R161, R193, the scenarios S13 and S14 for every range and payload): with the standard handlers
and the default bank, the dispatcher takes a multiple write and then a read of the same range from the queue, and the response to the
read has the payload bytes; the response to the write is its echo. The two requests may be of two sources and two transports. -/
def Obligations.MasterReadsBackWhatItWrote : Prop :=
  ∀ (s : State) (a : Arrays) (hdr hdr' : Header) (k k' : SinkId) (rest : List Request) (register count : Word) (byteCount : Byte)
    (payload : List Byte), s.dstate = .idle → s.bank = .default a → s.bank.wf = true →
    register.toNat + count.toNat ≤ 65536 → 0 < count.toNat →
    (s.slot 0x10#8 = some .stdWriteMultipleRegisters → s.slot 0x03#8 = some .stdReadHoldingRegisters →
      count.toNat ≤ 125 → payload.length = 2 * count.toNat →
      s.queue = ⟨hdr.frame 0x10#8 (be16 register ++ be16 count ++ byteCount :: payload), k⟩ ::
        ⟨hdr'.frame 0x03#8 (be16 register ++ be16 count), k'⟩ :: rest → ∃ t u,
      runMove .dispRequest s = .next t ∧
      t.dstate = .write (Spec.wire (hdr.frame 0x10#8 (be16 register ++ be16 count))) k ∧
      runMoves [.dispWrite, .dispRequest] t = .next u ∧ u.queue = rest ∧
      u.dstate = .write (Spec.wire (hdr'.frame 0x03#8 (BitVec.ofNat 8 payload.length :: payload))) k') ∧
    (s.slot 0x0F#8 = some .stdWriteMultipleCoils → s.slot 0x01#8 = some .stdReadCoils →
      count.toNat ≤ 2000 → payload.length = (count.toNat + 7) / 8 →
      (∀ i, count.toNat ≤ i → i < 8 * payload.length → Spec.bitOf payload i = false) →
      s.queue = ⟨hdr.frame 0x0F#8 (be16 register ++ be16 count ++ byteCount :: payload), k⟩ ::
        ⟨hdr'.frame 0x01#8 (be16 register ++ be16 count), k'⟩ :: rest → ∃ t u,
      runMove .dispRequest s = .next t ∧
      t.dstate = .write (Spec.wire (hdr.frame 0x0F#8 (be16 register ++ be16 count))) k ∧
      runMoves [.dispWrite, .dispRequest] t = .next u ∧ u.queue = rest ∧
      u.dstate = .write (Spec.wire (hdr'.frame 0x01#8 (BitVec.ofNat 8 payload.length :: payload))) k')

/-- R137: the standard handlers with the default bank return only the exception codes 0, 2 and 3. -/
def Obligations.StandardHandlersReturnOnlyZeroTwoThree : Prop :=
  ∀ (p : Params) (a : Arrays) (h : HandlerId) (f : Frame), (∀ k, h ≠ .custom k) →
    let e := (runHandler p h (.default a) f).exc
    e = 0#8 ∨ e = 2#8 ∨ e = 3#8

/-- R138: the payload sizes of the standard handlers with the default bank under the default count limits, at most 251 bytes. -/
def Obligations.StandardPayloadSizes : Prop :=
  ∀ (p : Params) (a : Arrays) (h : HandlerId) (f : Frame), p.countLimits = .enforceUpper →
    (runHandler p h (.default a) f).exc = 0#8 →
    let payload := (runHandler p h (.default a) f).payload
    let count := (beWord f.data 2).toNat
    (h = .stdReadCoils ∨ h = .stdReadDiscreteInputs →
      payload.length = (if count = 0 ∧ p.emptyReadForm = .empty then 0 else 1 + (count + 7) / 8) ∧ payload.length ≤ 251) ∧
    (h = .stdReadHoldingRegisters ∨ h = .stdReadInputRegisters →
      payload.length = (if count = 0 ∧ p.emptyReadForm = .empty then 0 else 1 + 2 * count) ∧ payload.length ≤ 251) ∧
    (h = .stdWriteSingleCoil ∨ h = .stdWriteSingleRegister ∨ h = .stdWriteMultipleCoils ∨ h = .stdWriteMultipleRegisters →
      payload.length = 4)

/-- R250: the dispatcher takes no trap. A request that a standard handler with the default bank ends in an exception leaves the bank, and every
other part of the block, as it was: nothing is saved and no mode changes; the request is taken from the queue and the exception response
is what the dispatcher writes next. Only the CRC register may change, and that for an RTU request alone. -/
def Obligations.ExceptionLeavesTheBlockAsItWas : Prop :=
  ∀ (s : State) (a : Arrays) (req : Request) (rest : List Request) (h : HandlerId), s.dstate = .idle → s.queue = req :: rest →
    s.bank = .default a → s.slot req.frame.function = some h → (∀ k, h ≠ .custom k) →
    let e := (runHandler s.cfg h s.bank req.frame).exc
    e ≠ 0#8 → ∃ t, runMove .dispRequest s = .next t ∧
      t = { s with
        queue := rest
        dstate := .write (Spec.wire (req.frame.header.frame (req.frame.function ||| 0x80#8) [e])) req.sink
        crc := t.crc
        crcLoaded := t.crcLoaded } ∧
      ((∃ x, req.frame = .tcp x) → t.crc = s.crc ∧ t.crcLoaded = s.crcLoaded)

/-- R159: discrete inputs and input registers of the default bank keep their values over every step, custom handlers included, and the
default bank stays the bank. -/
def Obligations.ReadOnlySpacesNeverChange : Prop :=
  ∀ (s t : State) (a : Arrays), step s = .next t → s.bank = .default a →
    ∃ b, t.bank = .default b ∧ b.discreteInputs = a.discreteInputs ∧ b.inputRegisters = a.inputRegisters

/-! Dispatch. -/

/-- R196 and R197: FN_LOOKUP answers the slot; FN_SET in `CONFIG` sets the one slot and no other, and is refused in every other lifecycle
state. From `start()` on only the dispatcher reads the table (R190): the command then answers for the request that the dispatcher takes
next, and else waits, the model's choice (log entry 10). -/
def Obligations.FunctionTableOperations : Prop :=
  (∀ (fc : Byte) (s : State), s.life = .config → exec (.fnLookup fc) s = .next { s with result := .slot (s.slot fc) }) ∧
  (∀ (s : State) (req : Request) (rest : List Request), s.dstate = .idle → s.queue = req :: rest →
    exec (.fnLookup req.frame.function) s = .next { s with result := .slot (s.slot req.frame.function) }) ∧
  (∀ (fc : Byte) (s : State), s.life ≠ .config → (s.dstate ≠ .idle ∨ ∀ req ∈ s.queue.head?, req.frame.function ≠ fc) →
    exec (.fnLookup fc) s = .next { s with result := .waiting }) ∧
  (∀ (fc : Byte) (h : Option HandlerId) (s : State), s.life = .config → ∃ ft,
    exec (.fnSet fc h) s = .next { s with ft := ft, result := .none } ∧
    ∀ x : Byte, State.slot { s with ft := ft } x = if x = fc then h else s.slot x) ∧
  (∀ (fc : Byte) (h : Option HandlerId) (s : State), s.life ≠ .config →
    exec (.fnSet fc h) s = .refused (.wrongLifecycle .fnSet))

/-- R36 and R38: over every step of the block, the function table changes only by an FN_SET in `CONFIG`, and the parameters of R9, which the
model keeps in the state (log entry 5), never change. -/
def Obligations.ConfigurationWrittenOnlyByFnSet : Prop :=
  ∀ s t : State, step s = .next t → t.cfg = s.cfg ∧ (t.ft = s.ft ∨
    (s.life = .config ∧ ∃ port bytes fc h, (nextInput s).1 = .message port bytes ∧ decode port bytes = .ok (.fnSet fc h)))

/-- R190 and R200: from `start()` on the bank changes only by the dispatcher's request arm, which serves the head of the queue; and the queue
changes only by that arm, which pops it, and by a reader's push at its tail (R40). Before `start()` a command may change the bank, which
stands for the choice of `BANK_INIT` (log entry 10). -/
def Obligations.OnlyTheDispatcherReachesBankAndQueue : Prop :=
  ∀ s t : State, step s = .next t →
    (s.life = .config ∨ t.bank = s.bank ∨ Spec.Takes s t) ∧
    (t.queue = s.queue ∨ Spec.Takes s t ∨
      ∃ k req, s.parsedRequest k = some req ∧ t.awaited k = some req ∧ s.queue.length < s.cfg.channelDepth ∧
        t.queue = s.queue ++ [req])

/-- R193: HANDLE looks the slot up, runs the handler, builds the response and serializes it in the framing of its request. A response
that TCP cannot carry is a fault, and then nothing else is written (R254). As a command it acts before `start()`, and from then on is
the dispatcher's request arm when its request is the one the dispatcher takes next, else it waits (log entry 10); the kind of its
frame is not compared with that of its sink (log entry 26). -/
def Obligations.HandleServesTheRequest : Prop :=
  (∀ (req : Request) (s : State), s.life = .config →
    let q := Spec.response req.frame (Spec.handling s req.frame)
    exec (.handle req) s = .next (if Spec.fits q = true
      then { Spec.handled s req.frame with result := .response (Spec.wire q) req.sink }
      else { s with fault := some .tcpResponseTooLong })) ∧
  (∀ (req : Request) (rest : List Request) (s : State), s.life ≠ .config → s.dstate = .idle → s.queue = req :: rest →
    let q := Spec.response req.frame (Spec.handling s req.frame)
    exec (.handle req) s = .next (if Spec.fits q = true
      then { Spec.taken s req rest with result := .response (Spec.wire q) req.sink }
      else { s with fault := some .tcpResponseTooLong })) ∧
  (∀ (req : Request) (s : State), s.life ≠ .config → (s.dstate ≠ .idle ∨ s.queue.head? ≠ some req) →
    exec (.handle req) s = .next { s with result := .waiting })

/-- R191, R192 and R195: the dispatcher starts in `RUNNING`; idle, it takes the head of the queue through HANDLE (R193) and goes to its write
state, or with `close = 1` leaves its loop; with neither it waits; having left, it takes no step. That a move which is not enabled
answers the same state is the model's choice (log entry 2). -/
def Obligations.DispatcherSelects : Prop :=
  (∀ s : State, s.dstate = .off → s.life = .running → runMove .dispStart s = .next { s with dstate := .idle }) ∧
  (∀ (s : State) (req : Request) (rest : List Request), s.dstate = .idle → s.queue = req :: rest →
    runMove .dispRequest s = .next (if Spec.fits (Spec.response req.frame (Spec.handling s req.frame)) = true
      then Spec.taken s req rest
      else { s with fault := some .tcpResponseTooLong })) ∧
  (∀ s : State, s.dstate = .idle → s.close = true → runMove .dispClose s = .next { s with dstate := .exit }) ∧
  (∀ s : State, s.dstate = .idle → s.queue = [] → s.close = false →
    ∀ m ∈ [Move.dispStart, .dispRequest, .dispClose, .dispWrite], runMove m s = .next s) ∧
  (∀ s : State, s.dstate = .exit →
    ∀ m ∈ [Move.dispStart, .dispRequest, .dispClose, .dispWrite], runMove m s = .next s)

/-- R194: ROUTE writes the response to exactly the source it names, as one whole write when the source is open and not at all when it is
closed, releases its reader if it waits, and leaves every other source; a sink id that names no source is written nowhere (log entry 23). That it
waits as a command with other operands than the dispatcher's is the model's choice (log entries 2 and 10). -/
def Obligations.RouteWritesToItsOwnSourceOnly : Prop :=
  (∀ (s : State) (bytes : List Byte) (k : SinkId), s.dstate = .write bytes k → ∃ t,
    runMove .dispWrite s = .next t ∧
    exec (.route bytes k) s = .next { t with result := .none } ∧
    t = { s with dstate := .idle, listeners := t.listeners, ports := t.ports } ∧
    Spec.SourceStep s t k
      (fun c => { c with
        out := if c.isOpen then c.out ++ [bytes] else c.out
        rstate := match c.rstate with
          | .wait _ => .hdr []
          | r       => r })
      (fun sp => { sp with
        out := if sp.isOpen then sp.out ++ [bytes] else sp.out
        rstate := match sp.rstate with
          | .wait _ => .check
          | r       => r })) ∧
  (∀ (s : State) (bytes : List Byte) (k : SinkId), s.dstate ≠ .write bytes k →
    exec (.route bytes k) s = .next { s with result := .waiting })

/-- Over every step, what a source has been sent changes only by one whole response that the dispatcher held for that very source (R69, R194,
R199): no request reaches another source's sink (R259). -/
def Obligations.OutputReachesOnlyTheRequestingSource : Prop :=
  ∀ (s t : State) (k : SinkId), step s = .next t →
    t.outOf k = s.outOf k ∨
    ∃ bytes, s.dstate = .write bytes k ∧ t.outOf k = s.outOf k ++ [bytes] ∧ t.dstate = .idle

/-! Readers and accept units. -/

/-- R217, R219 and R225: the enqueue step of a reader that holds a parsed request, push with space and no close, abandon with close and no
space, either with both, waiting with neither, and each arm as a move of its own; a reader that waits for its response leaves the wait
on close, its source closed, and else not by itself; and a port whose reader never started is closed on close (R228, a step of the
model's, log entry 22). That what is not enabled waits is the model's choice (log entries 2 and 10), and the arm of the command a free
value (log entry 17). -/
def Obligations.EnqueueAndWaitEndSteps : Prop :=
  (∀ (s : State) (req : Request), s.parsedRequest req.sink = some req →
    (s.queue.length < s.cfg.channelDepth →
      (∃ t, runMove (.push req.sink) s = .next t ∧ Spec.Pushed s t req) ∧
      (s.close = false → ∃ t, exec (.enqueue req) s = .next t ∧ Spec.Pushed s t req)) ∧
    (s.close = true →
      (∃ t, runMove (.abandon req.sink) s = .next t ∧ Spec.Abandoned s t req.sink) ∧
      (¬ s.queue.length < s.cfg.channelDepth → ∃ t, exec (.enqueue req) s = .next t ∧ Spec.Abandoned s t req.sink)) ∧
    (s.queue.length < s.cfg.channelDepth → s.close = true →
      ∃ t, exec (.enqueue req) s = .next t ∧ (Spec.Pushed s t req ∨ Spec.Abandoned s t req.sink)) ∧
    (¬ s.queue.length < s.cfg.channelDepth → s.close = false →
      exec (.enqueue req) s = .next { s with result := .waiting } ∧
      runMove (.push req.sink) s = .next s ∧ runMove (.abandon req.sink) s = .next s)) ∧
  (∀ (s : State) (req : Request), s.parsedRequest req.sink ≠ some req →
    exec (.enqueue req) s = .next { s with result := .waiting }) ∧
  (∀ (s : State) (k : SinkId) (req : Request), s.awaited k = some req → s.close = true →
    runMove (.leaveWait k) s = .next (s.closeSource k) ∧ Spec.Abandoned s (s.closeSource k) k) ∧
  (∀ (s : State) (k : SinkId), s.awaited k = none ∨ s.close = false → runMove (.leaveWait k) s = .next s) ∧
  (∀ (s : State) (p : Nat) (sp : SerialPort), s.port? p = some sp → sp.rstate = .off → s.close = true →
    Spec.PortMove (.rtuUnstarted p) s p { sp with rstate := .closed, isOpen := false })

/-- R211, R212 and R213: the header read, the body read and the parse of a TCP reader. -/
def Obligations.TcpReaderReadsAndParses : Prop :=
  ∀ (s : State) (l n : Nat) (c : Conn), s.conn? l n = some c →
    (∀ (h : List Byte) (k : Nat), c.rstate = .hdr h → 1 ≤ k → k ≤ min (7 - h.length) c.inp.length →
      let h' := h ++ c.inp.take k
      let rest := c.inp.drop k
      Spec.ConnMove (.tcpHeader l n k) s l n (
        if h'.length < 7 then { c with rstate := .hdr h', inp := rest }
        else if beWord h' 4 = 0#16 then { c with rstate := .closed, isOpen := false, inp := [] }
        else { c with rstate := .body h' ((beWord h' 4).toNat - 1) [], inp := rest })) ∧
    (∀ (h b : List Byte) (need k : Nat), c.rstate = .body h need b → 1 ≤ k → k ≤ min need c.inp.length →
      Spec.ConnMove (.tcpBody l n k) s l n
        { c with rstate := .body h (need - k) (b ++ c.inp.take k), inp := c.inp.drop k }) ∧
    (∀ h b : List Byte, c.rstate = .body h 0 b →
      let p := h ++ b
      Spec.ConnMove (.tcpParse l n) s l n (
        if p.length < 8 ∨ s.cfg.tcpLengthCheck = .strict ∧ (beWord p 4).toNat ≠ p.length - 6 then
          { c with rstate := .closed, isOpen := false, inp := [] }
        else { c with
          rstate := .enq ⟨.tcp ⟨beWord p 0, beWord p 2, p.getD 6 0#8, p.getD 7 0#8, p.drop 8⟩, .tcp l n⟩ }))

/-- R227: however the bytes are split into reads, a TCP reader that has read a frame in full has taken exactly its `6 + L` bytes from the
front of its input and none of the next frame. -/
def Obligations.TcpReaderTakesExactlyOneFrame : Prop :=
  ∀ (s t : State) (l n : Nat) (c c' : Conn) (reads : List (Bool × Nat)) (head body : List Byte),
    s.conn? l n = some c → c.rstate = .hdr [] →
    runMoves (reads.map fun r => if r.1 then .tcpHeader l n r.2 else .tcpBody l n r.2) s = .next t →
    t.conn? l n = some c' → c'.rstate = .body head 0 body →
    c.inp = head ++ body ++ c'.inp ∧ (head ++ body).length = 6 + (beWord head 4).toNat ∧ c'.out = c.out ∧ c'.isOpen = c.isOpen

/-- R220 and R221, with the host's part of R262: the close check, the end of input, and bytes and closes from the peer. That bytes sent after
a close, and a close of a connection that is closed already, are moves of these forms is log entry 19, and that a move which is not
enabled answers the same state log entry 2. -/
def Obligations.TcpReaderEnds : Prop :=
  ∀ (s : State) (l n : Nat) (c : Conn), s.conn? l n = some c →
    (((∃ h, c.rstate = .hdr h) ∨ ∃ h need b, c.rstate = .body h need b) →
      (s.close = true →
        Spec.ConnMove (.tcpCloseCheck l n) s l n { c with rstate := .closed, isOpen := false, inp := [] }) ∧
      (s.close = false → runMove (.tcpCloseCheck l n) s = .next s)) ∧
    (((∃ h, c.rstate = .hdr h) ∨ ∃ h need b, c.rstate = .body h need b ∧ 0 < need) → c.inp = [] → c.eof = true →
      Spec.ConnMove (.tcpEnd l n) s l n { c with rstate := .closed, isOpen := false, inp := [] }) ∧
    (∀ bytes : List Byte, c.eof = false → c.rstate ≠ .closed →
      Spec.ConnMove (.send l n bytes) s l n { c with inp := c.inp ++ bytes }) ∧
    (∀ bytes : List Byte, c.eof = true ∨ c.rstate = .closed → runMove (.send l n bytes) s = .next s) ∧
    Spec.ConnMove (.hangUp l n) s l n { c with eof := true }

/-- R222, R223 and R224: the start, the check, the read and the error of an RTU reader; a chunk that is no frame is discarded whole. What a
read leaves in the CRC register is left open here (log entry 4). -/
def Obligations.RtuReaderSteps : Prop :=
  ∀ (s : State) (p : Nat) (sp : SerialPort), s.port? p = some sp →
    (sp.rstate = .off → s.life = .running → Spec.PortMove (.rtuStart p) s p { sp with rstate := .check }) ∧
    (sp.rstate = .check → s.close = true →
      Spec.PortMove (.rtuCheck p) s p { sp with rstate := .closed, isOpen := false }) ∧
    (sp.rstate = .check → s.close = false → Spec.PortMove (.rtuCheck p) s p { sp with rstate := .block }) ∧
    (∀ chunk : List Byte, sp.rstate = .block → chunk.length ≤ 512 → ∃ t,
      runMove (.serialRead p chunk) s = .next t ∧
      t = { s with ports := t.ports, crc := t.crc, crcLoaded := t.crcLoaded } ∧
      Spec.SourceStep s t (.rtu p) id fun _ =>
        if chunk.length < 4 ∨ crcOf (chunk.take (chunk.length - 2)) ≠
            ofHiLo (chunk.getD (chunk.length - 1) 0#8) (chunk.getD (chunk.length - 2) 0#8) then
          { sp with rstate := .check }
        else
          { sp with
            rstate := .enq ⟨.rtu ⟨chunk.getD 0 0#8, chunk.getD 1 0#8, (chunk.take (chunk.length - 2)).drop 2⟩, .rtu p⟩ }) ∧
    (sp.rstate = .block → Spec.PortMove (.serialError p) s p { sp with rstate := .closed, isOpen := false })

/-- R76, R218 and R225: over every step, a reader that waits for its response, of either kind, reads no byte and stays as it is, until ROUTE
releases it or the close signal ends it. -/
def Obligations.WaitingReaderReadsNoByte : Prop :=
  (∀ (s t : State) (l n : Nat) (c : Conn) (req : Request), step s = .next t → s.conn? l n = some c → c.rstate = .wait req →
    ∃ c', t.conn? l n = some c' ∧
      ((c'.rstate = .wait req ∧ ∃ more, c'.inp = c.inp ++ more) ∨
       (c'.rstate = .hdr [] ∧ c'.inp = c.inp ∧ ∃ bytes, s.dstate = .write bytes (.tcp l n)) ∨
       (c'.rstate = .closed ∧ s.close = true))) ∧
  (∀ (s t : State) (p : Nat) (sp : SerialPort) (req : Request), step s = .next t → s.port? p = some sp → sp.rstate = .wait req →
    ∃ sp', t.port? p = some sp' ∧
      ((sp'.rstate = .wait req ∧ sp'.out = sp.out) ∨
       (sp'.rstate = .check ∧ ∃ bytes, s.dstate = .write bytes (.rtu p)) ∨
       (sp'.rstate = .closed ∧ s.close = true)))

/-- R220 and R223 (c): `T_CLOSED` and `U_CLOSED` are terminal. Over every step a closed source stays closed and is sent nothing more. -/
def Obligations.ClosedSourcesStayClosed : Prop :=
  ∀ (s t : State) (k : SinkId), s.SourcesWf → step s = .next t → s.sourceClosed k = true →
    t.sourceClosed k = true ∧ t.outOf k = s.outOf k

/-- R214, R215 and R216: the accept units. An accepted connection is the next of its listener, with the values of R41, where the bound of
R9 on connections, if any, allows it, and else the accept waits (log entry 21). That a move which is not enabled answers the same state
is the model's choice (log entry 2). -/
def Obligations.AcceptUnitSteps : Prop :=
  ∀ (s : State) (l : Nat) (li : Listener), s.listeners[l]? = some li →
    (li.acc = .run → (∀ bound, s.cfg.maxConnections = some bound → s.openConnections < bound) →
      runMove (.accept l) s = .next { s with
        listeners := s.listeners.set l { li with conns := li.conns ++ [⟨.hdr [], true, [], [], false⟩] } }) ∧
    (∀ bound, s.cfg.maxConnections = some bound → bound ≤ s.openConnections → runMove (.accept l) s = .next s) ∧
    (li.acc = .off → s.life = .running →
      runMove (.accStart l) s = .next { s with listeners := s.listeners.set l { li with acc := .run } }) ∧
    (li.acc = .run →
      runMove (.acceptError l false) s = .next { s with listeners := s.listeners.set l { li with acc := .pause } } ∧
      runMove (.acceptError l true) s = .next { s with
        listeners := s.listeners.set l { li with acc := if s.close then .closed else .error } }) ∧
    (li.acc = .pause →
      runMove (.accResume l) s = .next { s with listeners := s.listeners.set l { li with acc := .run } }) ∧
    (li.acc = .closed ∨ li.acc = .error → ∀ m ∈ [Move.accept l, .accStart l, .acceptError l false, .acceptError l true, .accResume l],
      runMove m s = .next s)

/-! Invariants. -/

/-- Every step keeps the canonical form of the bank: addresses strictly rising and below 65536, no entry equal to what an unlisted address
reads as (R70; the form is the model's, log entry 7). -/
def Obligations.StepKeepsBankCanonical : Prop :=
  ∀ s t : State, step s = .next t → s.bank.wf = true → t.bank.wf = true

/-- Every step keeps the sources sound: the reader buffers within the bounds of R42, a held request naming its own sink (R210), and
`open(s)` 0 exactly when the reader is closed (R220, R223). -/
def Obligations.StepKeepsSourcesSound : Prop :=
  ∀ s t : State, step s = .next t → s.SourcesWf → t.SourcesWf

/-- R226 and R40: every step keeps at most one request per source between its push and its ROUTE step, the queue within `CHANNEL_DEPTH`, and
each such request's reader waiting for it or, after `close = 1`, closed. So the queue holds at most as many requests as there are sources,
and before `close = 1` at most as many as there are open ones; after it a reader may close with its request left in the queue (R219,
R277; log entry 22). -/
def Obligations.OneOutstandingRequestPerSource : Prop :=
  (∀ s t : State, step s = .next t → s.SourcesWf → s.OneOutstanding → t.OneOutstanding) ∧
  (∀ s : State, s.SourcesWf → s.OneOutstanding →
    s.queue.length ≤ min s.cfg.channelDepth s.sinks.length ∧
    (s.close = false → s.queue.length ≤ min s.cfg.channelDepth s.openSources))

/-- Every step keeps what the lifecycle promises (R27, R34, R271, R276). -/
def Obligations.StepKeepsLifecyclePromises : Prop :=
  ∀ s t : State, step s = .next t → s.LifecycleWf → t.LifecycleWf

/-- The reset state, and the block right after construction with any parameters and any canonical bank, has all the invariants. -/
def Obligations.ResetIsSound : Prop :=
  State.reset.Sound ∧ ∀ (cfg : Params) (bank : Bank), bank.wf = true → (State.construct cfg bank).Sound

/-! Reset, lifecycle, faults and the step. -/

/-- R44 and R270: what reset leaves: the standard function table of R37, every bank entry 0, an empty queue, `close = 0`, `CONFIG`, `D_OFF`, no fault
and no source. Nothing is said of `crc`, whose value the spec leaves unspecified. -/
def Obligations.ResetState : Prop :=
  (∀ fc : Byte, State.reset.slot fc =
    if fc = 1#8 then some .stdReadCoils
    else if fc = 2#8 then some .stdReadDiscreteInputs
    else if fc = 3#8 then some .stdReadHoldingRegisters
    else if fc = 4#8 then some .stdReadInputRegisters
    else if fc = 5#8 then some .stdWriteSingleCoil
    else if fc = 6#8 then some .stdWriteSingleRegister
    else if fc = 15#8 then some .stdWriteMultipleCoils
    else if fc = 16#8 then some .stdWriteMultipleRegisters
    else none) ∧
  (∃ a : Arrays, State.reset.bank = .default a ∧ ∀ x : Nat,
    Memory.read a.coils x = false ∧ Memory.read a.discreteInputs x = false ∧
    Memory.read a.holdingRegisters x = 0#16 ∧ Memory.read a.inputRegisters x = 0#16) ∧
  State.reset.queue = [] ∧ State.reset.close = false ∧ State.reset.life = .config ∧ State.reset.dstate = .off ∧
  State.reset.fault = none ∧ State.reset.listeners = [] ∧ State.reset.ports = []

/-- The lifecycle calls of R271 in `CONFIG`, a failed call included (R245), and their refusal in every other lifecycle state. -/
def Obligations.LifecycleCalls : Prop :=
  (∀ s : State, s.life = .config →
    runMove (.listenTcp true) s = .next { s with listeners := s.listeners ++ [⟨.off, []⟩] } ∧
    runMove (.listenTcp false) s = .next s ∧
    runMove (.listenRtu true) s = .next { s with ports := s.ports ++ [⟨.off, true, []⟩] } ∧
    runMove (.listenRtu false) s = .next s ∧
    runMove .start s = .next { s with life := .running }) ∧
  (∀ (s : State) (ok : Bool), s.life ≠ .config →
    runMove (.listenTcp ok) s = .refused (.wrongLifecycle .listenTcp) ∧
    runMove (.listenRtu ok) s = .refused (.wrongLifecycle .listenRtu) ∧
    runMove .start s = .refused (.wrongLifecycle .start))

/-- R276: the `shutdown()` call sets the close signal in `RUNNING` and is refused in every other lifecycle state; its completion waits for every
reader to be closed, then closes every listener and port and goes to `STOPPED`. The refusal is R271's, and that a completion which is not
enabled answers the same state is the model's choice (log entry 2). -/
def Obligations.ShutdownCallAndCompletion : Prop :=
  (∀ s : State, s.life = .running → exec .close s = .next { s with close := true, life := .shutdown, result := .none }) ∧
  (∀ s : State, s.life ≠ .running → exec .close s = .refused (.wrongLifecycle .shutdown)) ∧
  (∀ s : State, s.life = .shutdown →
    (∀ li ∈ s.listeners, ∀ c ∈ li.conns, c.rstate = .closed) → (∀ sp ∈ s.ports, sp.rstate = .closed) →
    runMove .shutdownComplete s = .next { s with
      life := .stopped
      listeners := s.listeners.map fun li => { li with acc := if li.acc = .error then .error else .closed }
      ports := s.ports.map fun sp => { sp with isOpen := false } }) ∧
  (∀ s : State, (s.life ≠ .shutdown ∨ (∃ li ∈ s.listeners, ∃ c ∈ li.conns, c.rstate ≠ .closed) ∨ ∃ sp ∈ s.ports, sp.rstate ≠ .closed) →
    runMove .shutdownComplete s = .next s)

/-- R27: over every step the close signal is set only by `shutdown()` in `RUNNING` and is never cleared; and the lifecycle state only goes from
`CONFIG` to `RUNNING` to `SHUTDOWN` to `STOPPED` (R34). -/
def Obligations.CloseSignalSetOnlyByShutdown : Prop :=
  ∀ s t : State, step s = .next t →
    (s.close = true → t.close = true) ∧
    (s.close = false → t.close = true → s.life = .running ∧ t.life = .shutdown ∧
      ∃ port bytes, (nextInput s).1 = .message port bytes ∧ decode port bytes = .ok .close) ∧
    (t.life = s.life ∨ (s.life = .config ∧ t.life = .running) ∨ (s.life = .running ∧ t.life = .shutdown ∧ t.close = true) ∨
      (s.life = .shutdown ∧ t.life = .stopped ∧ s.readersClosed = true))

/-- Shutdown can always complete (R228, R274, R276): from every state in `SHUTDOWN` with no fault, some moves of the agents and the host end in
`STOPPED`, the host returning from blocked serial reads. A port whose reader never started is closed by the model's step for it (log
entry 22). This is the reachability half of R228; fairness is no part of one step (log entry 25). -/
def Obligations.ShutdownCanComplete : Prop :=
  ∀ s : State, s.fault = none → s.life = .shutdown → s.close = true →
    ∃ (ms : List Move) (t : State), runMoves ms s = .next t ∧ t.life = .stopped ∧ t.readersClosed = true ∧ t.fault = none

/-- R254 and R29: a step that raises a fault writes nothing else of the block, having consumed its input (log entry 18), and in a faulted
state no step is taken. -/
def Obligations.FaultsArePreciseAndFinal : Prop :=
  (∀ (s t : State) (f : BlockFault), step s = .next t → t.fault = some f →
    t = { s with fault := some f, inputs := t.inputs, draws := t.draws }) ∧
  (∀ (s : State) (f : BlockFault), s.fault = some f → step s = .fault (.halted f))

/-- R255, R256 and R258: only CRC_UPDATE raises `CRC_UNINITIALISED`, and only with nothing loaded; only a serialization raises
`TCP_RESPONSE_TOO_LONG`: TCP_SERIALIZE of a frame with Data longer than 65533 bytes, or the handling of a TCP request whose response has
such Data, which is HANDLE before `start()` or the dispatcher's request arm for the head of the queue, as a move or as the command or
request that stands for it (log entry 10). -/
def Obligations.OnlyTheListedCausesRaiseFaults : Prop :=
  ∀ (s t : State) (f : BlockFault), step s = .next t → t.fault = some f →
    (f = .crcUninitialised ∧ s.crcLoaded = false ∧
      ∃ port bytes b, (nextInput s).1 = .message port bytes ∧ decode port bytes = .ok (.crcUpdate b)) ∨
    (f = .tcpResponseTooLong ∧
      ((∃ port bytes x, (nextInput s).1 = .message port bytes ∧ decode port bytes = .ok (.tcpSerialize x) ∧ 65533 < x.data.length) ∨
       ∃ req : Request, (∃ x, req.frame = .tcp x) ∧ 65533 < (Spec.response req.frame (Spec.handling s req.frame)).data.length ∧
        ((s.life = .config ∧ ∃ port bytes, (nextInput s).1 = .message port bytes ∧ decode port bytes = .ok (.handle req)) ∨
         (s.dstate = .idle ∧ (∃ rest, s.queue = req :: rest) ∧
          ((nextInput s).1 = .move .dispRequest ∨
           (∃ port bytes, (nextInput s).1 = .message port bytes ∧ decode port bytes = .ok (.handle req)) ∨
           ∃ hdr fc data, (nextInput s).1 = .message (.pdu hdr) (fc :: data) ∧ req.frame = hdr.frame fc data)))))

/-- A step runs the decoded instruction: when the next input is bytes on a port that decode to `i`, `step` is `exec i` in the state with that
input consumed; a free input is drawn when none is listed; a move is run as that move. -/
def Obligations.StepRunsTheDecodedInstruction : Prop :=
  (∀ (s : State) (port : Port) (bytes : List Byte) (i : Instr) (rest : List Input),
    s.fault = none → s.inputs = .message port bytes :: rest → decode port bytes = .ok i →
    step s = exec i { s with inputs := rest }) ∧
  (∀ (s : State) (m : Move) (rest : List Input), s.fault = none → s.inputs = .move m :: rest →
    step s = runMove m { s with inputs := rest }) ∧
  (∀ s : State, s.fault = none → s.inputs = [] →
    step s = consume (Config.freeInput s.draws) { s with draws := s.draws + 1 }) ∧
  (∀ (s : State) (nbits w : Nat) (i : Instr), s.fault = none → decodeTableWord nbits w = some i →
    step (s.withFetchWord nbits w) = exec i s)

/-- R22 and R255: nothing can be learned of a CRC register that nothing has written since reset. Two runs that differ only in it differ
after a step at most in it, or stop alike. -/
def Obligations.StaleCrcIsNotObservable : Prop :=
  ∀ s t : State, Spec.SameButStaleCrc s t → Spec.SameOutcome (step s) (step t)
end

