-- ==== Sys2Proof/Laws/Bytes.lean ====
section
/-! SUPPORT. Byte order (R12, R60 to R62): cutting a word into bytes and building it back, and the operand fields of the
command port. -/

namespace Sys2Proof

@[simp] theorem hiByte_ofHiLo (hi lo : Byte) : hiByte (ofHiLo hi lo) = hi := by
  apply BitVec.eq_of_getLsbD_eq
  intro i hi'
  simp [hiByte, ofHiLo, hi', show 8 + i < 16 by omega]

@[simp] theorem loByte_ofHiLo (hi lo : Byte) : loByte (ofHiLo hi lo) = lo := by
  apply BitVec.eq_of_getLsbD_eq
  intro i hi'
  simp [loByte, ofHiLo, hi', show i < 16 by omega]

@[simp] theorem ofHiLo_hiByte_loByte (v : Word) : ofHiLo (hiByte v) (loByte v) = v := by
  apply BitVec.eq_of_getLsbD_eq
  intro i hi'
  by_cases h : i < 8
  · simp [hiByte, loByte, ofHiLo, h, hi']
  · simp [hiByte, loByte, ofHiLo, h, hi', show i - 8 < 8 by omega, show 8 + (i - 8) = i by omega]

theorem ofHiLo_injective {hi lo hi' lo' : Byte} (h : ofHiLo hi lo = ofHiLo hi' lo') : hi = hi' ∧ lo = lo' :=
  ⟨by simpa using congrArg hiByte h, by simpa using congrArg loByte h⟩

@[simp] theorem be16_ofHiLo (hi lo : Byte) : be16 (ofHiLo hi lo) = [hi, lo] := by simp [be16]

@[simp] theorem le16_ofHiLo (hi lo : Byte) : le16 (ofHiLo hi lo) = [lo, hi] := by simp [le16]

@[simp] theorem be16_length (v : Word) : (be16 v).length = 2 := rfl

@[simp] theorem le16_length (v : Word) : (le16 v).length = 2 := rfl

@[simp] theorem be32_length (n : Nat) : (be32 n).length = 4 := rfl

@[simp] theorem beWords_length (ws : List Word) : (beWords ws).length = 2 * ws.length := by
  induction ws with
  | nil => rfl
  | cons w ws ih => simp [beWords, ih]; omega

theorem beWords_eq_flatten (ws : List Word) : beWords ws = (ws.map be16).flatten := by
  induction ws with
  | nil => rfl
  | cons w ws ih => simp [beWords, ih]

theorem ofBytes32_be32 {n : Nat} (h : n < 2 ^ 32) :
    ofBytes32 (BitVec.ofNat 8 (n / 2 ^ 24)) (BitVec.ofNat 8 (n / 2 ^ 16)) (BitVec.ofNat 8 (n / 2 ^ 8)) (BitVec.ofNat 8 n) = n := by
  simp only [ofBytes32, BitVec.toNat_ofNat]
  omega

theorem ofBytes32_lt (b3 b2 b1 b0 : Byte) : ofBytes32 b3 b2 b1 b0 < 2 ^ 32 := by
  have := b3.isLt; have := b2.isLt; have := b1.isLt; have := b0.isLt
  simp only [ofBytes32]; omega

theorem be32_ofBytes32 (b3 b2 b1 b0 : Byte) : be32 (ofBytes32 b3 b2 b1 b0) = [b3, b2, b1, b0] := by
  have := b3.isLt; have := b2.isLt; have := b1.isLt; have := b0.isLt
  simp only [be32, ofBytes32, List.cons.injEq, and_true]
  refine ⟨?_, ?_, ?_, ?_⟩ <;> apply BitVec.eq_of_toNat_eq <;> simp only [BitVec.toNat_ofNat] <;> omega

@[simp] theorem beWord_zero (hi lo : Byte) (rest : List Byte) : beWord (hi :: lo :: rest) 0 = ofHiLo hi lo := rfl

@[simp] theorem beWord_succ (b : Byte) (rest : List Byte) (i : Nat) : beWord (b :: rest) (i + 1) = beWord rest i := rfl

@[simp] theorem byteAt_zero (b : Byte) (rest : List Byte) : byteAt (b :: rest) 0 = b := rfl

@[simp] theorem byteAt_succ (b : Byte) (rest : List Byte) (i : Nat) : byteAt (b :: rest) (i + 1) = byteAt rest i := rfl

/-! Operand fields: what a decoder of one field makes of the bytes an encoder writes. -/

@[simp] theorem decode_byte (b : Byte) (rest : List Byte) : Decode.byte (b :: rest) = .ok (b, rest) := rfl

@[simp] theorem decode_word (v : Word) (rest : List Byte) : Decode.word (be16 v ++ rest) = .ok (v, rest) := by
  simp [be16, Decode.word]

@[simp] theorem decode_word_last (v : Word) : Decode.word (be16 v) = .ok (v, []) := by simp [be16, Decode.word]

@[simp] theorem decode_number {n : Nat} (h : n < maxOperand) (rest : List Byte) :
    Decode.number (be32 n ++ rest) = .ok (n, rest) := by
  simp [be32, Decode.number]
  simpa using ofBytes32_be32 h

@[simp] theorem decode_number_last {n : Nat} (h : n < maxOperand) : Decode.number (be32 n) = .ok (n, []) := by
  simpa using decode_number h []

@[simp] theorem decode_done (i : Instr) : Decode.done i [] = .ok i := rfl

@[simp] theorem decode_bit (v : Bool) : Decode.bit (Encode.bit v) = .ok v := by cases v <;> rfl

@[simp] theorem decode_bits (bs : List Bool) : Decode.bits (bs.map Encode.bit) = .ok bs := by
  induction bs with
  | nil => rfl
  | cons b bs ih => simp [Decode.bits, ih, Except.bind, Except.map]

@[simp] theorem decode_words (ws : List Word) : Decode.words (beWords ws) = .ok ws := by
  induction ws with
  | nil => rfl
  | cons w ws ih => simp [beWords, be16, Decode.words, ih, Except.map]

@[simp] theorem decode_rtuFrame (f : RtuFrame) : Decode.rtuFrame (Encode.rtuFrame f) = .ok f := rfl

@[simp] theorem decode_tcpFrame (f : TcpFrame) : Decode.tcpFrame (Encode.tcpFrame f) = .ok f := by
  simp [Decode.tcpFrame, Encode.tcpFrame, be16]

@[simp] theorem decode_frame (f : Frame) : Decode.frame (Encode.frame f) = .ok f := by
  cases f <;> simp [Decode.frame, Encode.frame, Except.bind, Except.map]

@[simp] theorem decode_sink {sink : SinkId} (h : sink.wf = true) (rest : List Byte) :
    Decode.sink (Encode.sink sink ++ rest) = .ok (sink, rest) := by
  cases sink with
  | rtu p =>
    replace h : p < maxOperand := by simpa [SinkId.wf] using h
    simp [Decode.sink, Encode.sink, Except.bind, Except.map, decode_number h]
  | tcp l n =>
    obtain ⟨hl, hn⟩ : l < maxOperand ∧ n < maxOperand := by simpa [SinkId.wf] using h
    simp [Decode.sink, Encode.sink, Except.bind, Except.map, decode_number hl, decode_number hn]

/-! The code tables: a row's code selects that row and no other. -/

@[simp] theorem opOfCode_code (o : Opsel) : opOfCode o.code = some o := by cases o <;> decide

@[simp] theorem fnOfCode_code (c : FnCode) : fnOfCode c.code = some c := by cases c <;> decide

theorem code_of_opOfCode {b : Byte} {o : Opsel} (h : opOfCode b = some o) : b = o.code := by
  exact (by simpa using List.find?_some h : _ = b).symm

theorem code_of_fnOfCode {b : Byte} {c : FnCode} (h : fnOfCode b = some c) : b = c.code := by
  exact (by simpa using List.find?_some h : _ = b).symm

end Sys2Proof
end

