-- ==== Sys2Proof/Laws/Codec.lean ====
section
/-! SUPPORT. Laws of the bit codec (R122, R123). -/

namespace Sys2Proof.Machine

@[simp] theorem packBits_length (bits : List Bool) : (packBits bits).length = ceilDiv8 bits.length := by simp [packBits]

theorem packByte_fold_getLsbD (f : Nat → Bool) (n j : Nat) (hn : n ≤ 8) (hj : j < 8) :
    ((List.range n).foldl (fun acc j => if f j then acc ||| (1#8 <<< j) else acc) 0#8).getLsbD j = (decide (j < n) && f j) := by
  induction n with
  | zero => simp
  | succ n ih =>
    rw [List.range_succ, List.foldl_append]
    simp only [List.foldl_cons, List.foldl_nil]
    have hone : (1#8 <<< n).getLsbD j = decide (j = n) := by
      simp [hj]
      by_cases h : j = n
      · simp [h]
      · simp [h]; omega
    split
    · rename_i hf
      rw [BitVec.getLsbD_or, ih (by omega), hone]
      by_cases h : j = n
      · subst h; simp [hf]
      · by_cases h' : j < n
        · simp [h', show j < n + 1 by omega, h]
        · simp [h', show ¬ j < n + 1 by omega, h]
    · rename_i hf
      rw [ih (by omega)]
      by_cases h : j = n
      · subst h; simp [hf]
      · by_cases h' : j < n
        · simp [h', show j < n + 1 by omega]
        · simp [h', show ¬ j < n + 1 by omega]

/-- Bit `j` of packed byte `k` is bit `8·k + j` of the string, and 0 beyond its end. -/
theorem packByte_getLsbD (bits : List Bool) (k : Nat) {j : Nat} (hj : j < 8) :
    (packByte bits k).getLsbD j = bits.getD (8 * k + j) false := by
  have := packByte_fold_getLsbD (fun j => bits.getD (8 * k + j) false) 8 j (by omega) hj
  simpa [packByte, hj] using this

theorem byteAt_packBits (bits : List Bool) {k : Nat} (hk : k < ceilDiv8 bits.length) :
    byteAt (packBits bits) k = packByte bits k := by
  simp [byteAt, packBits, List.getD_eq_getElem?_getD, hk]

/-- Bit `i` of a packed string is bit `i` of the string. -/
theorem packedBit_packBits (bits : List Bool) {i : Nat} (hi : i < bits.length) :
    packedBit (packBits bits) i = bits.getD i false := by
  rw [packedBit, byteAt_packBits, packByte_getLsbD _ _ (by omega)]
  · congr 1; omega
  · simp only [ceilDiv8]; omega

/-- Unpacking answers bits exactly when there are enough bytes, and then as many as asked for. -/
theorem unpackBits_eq_some {bytes : List Byte} {n : Nat} {bits : List Bool} :
    unpackBits bytes n = some bits ↔ ceilDiv8 n ≤ bytes.length ∧ bits = (List.range n).map (packedBit bytes) := by
  simp only [unpackBits]
  split
  · simp; omega
  · simp [eq_comm]; omega

end Sys2Proof.Machine
end

