-- ==== Sys2Proof/Laws/Crc.lean ====
section
/-! SUPPORT. Laws of the CRC register (R112, R113): folding bytes one after the other, and what eight shifts of a word whose low
byte is 0 give. -/

namespace Sys2Proof.Machine

@[simp] theorem crcOf_nil : crcOf [] = crcStart := rfl

theorem crcOf_append (b : List Byte) (x : Byte) : crcOf (b ++ [x]) = crcFold (crcOf b) x := by
  simp [crcOf, List.foldl_append]

theorem crcOf_append_list (b c : List Byte) : crcOf (b ++ c) = c.foldl crcFold (crcOf b) := by
  simp [crcOf, List.foldl_append]

theorem crcShifts_succ (n : Nat) (c : Word) : crcShifts (n + 1) c = crcShift (crcShifts n c) := by
  induction n generalizing c with
  | zero => rfl
  | succ n ih => rw [crcShifts, ih, crcShifts]

/-- While the low bits are 0, shift steps are plain shifts. -/
theorem crcShifts_of_low_zero {n : Nat} {c : Word} (h : ∀ i < n, c.getLsbD i = false) : crcShifts n c = c >>> n := by
  induction n generalizing c with
  | zero => simp [crcShifts]
  | succ n ih =>
    have h0 : c.getLsbD 0 = false := h 0 (by omega)
    rw [crcShifts, crcShift, if_neg (by rw [h0]; decide), ih, ← BitVec.shiftRight_add, Nat.add_comm 1 n]
    intro i hi
    rw [BitVec.getLsbD_ushiftRight]
    exact h (1 + i) (by omega)

theorem crcPrefix_append_le16 (p : List Byte) (v : Word) : crcPrefix (p ++ le16 v) = p := by
  simp [crcPrefix]

theorem crcTrailer_append_le16 (p : List Byte) (v : Word) : crcTrailer (p ++ le16 v) = v := by
  simp [crcTrailer, leWord, byteAt, le16]

/-- A byte string of at least two bytes is its prefix and the two bytes of its trailer. -/
theorem crcPrefix_append_crcTrailer {b : List Byte} (h : 2 ≤ b.length) : crcPrefix b ++ le16 (crcTrailer b) = b := by
  apply List.ext_getElem
  · simp [crcPrefix]; omega
  · intro i h1 h2
    simp only [crcPrefix, crcTrailer, leWord, le16_ofHiLo, byteAt]
    rw [List.getElem_append]
    split
    · simp
    · rename_i hi
      simp only [List.length_take, not_lt] at hi
      have : i = b.length - 2 ∨ i = b.length - 2 + 1 := by omega
      rcases this with rfl | rfl
      · simp [List.getD_eq_getElem?_getD, show b.length - 2 < b.length by omega]
      · have hl : b.length - 2 + 1 < b.length := by omega
        simp [List.getD_eq_getElem?_getD, hl]

end Sys2Proof.Machine
end

