-- ==== Sys2Proof/Laws/Decode.lean ====
section
/-! SUPPORT. Inversion of the operand decoders: if one answers a value, the bytes it took are that value's encoding. And which bytes
decode to a request. -/

namespace Sys2Proof

theorem decoded_bind {α β : Type} {x : Decoded α} {f : α → Decoded β} {r : β} (h : x.bind f = .ok r) :
    ∃ a, x = .ok a ∧ f a = .ok r := by
  cases x with
  | error e => cases h
  | ok a => exact ⟨a, rfl, h⟩

theorem decoded_map {α β : Type} {x : Decoded α} {f : α → β} {r : β} (h : x.map f = .ok r) : ∃ a, x = .ok a ∧ f a = r := by
  cases x with
  | error e => cases h
  | ok a => exact ⟨a, rfl, by injection h⟩

theorem bytes_of_byte {b r : List Byte} {x : Byte} (h : Decode.byte b = .ok (x, r)) : b = x :: r := by
  cases b <;> simp_all [Decode.byte]

theorem bytes_of_word {b r : List Byte} {x : Word} (h : Decode.word b = .ok (x, r)) : b = be16 x ++ r := by
  match b, h with
  | hi :: lo :: rest, h =>
    simp only [Decode.word, Except.ok.injEq, Prod.mk.injEq] at h
    obtain ⟨rfl, rfl⟩ := h
    simp

theorem bytes_of_number {b r : List Byte} {x : Nat} (h : Decode.number b = .ok (x, r)) : b = be32 x ++ r ∧ x < maxOperand := by
  match b, h with
  | b3 :: b2 :: b1 :: b0 :: rest, h =>
    simp only [Decode.number, Except.ok.injEq, Prod.mk.injEq] at h
    obtain ⟨rfl, rfl⟩ := h
    exact ⟨by rw [be32_ofBytes32]; rfl, ofBytes32_lt _ _ _ _⟩

theorem bytes_of_done {i j : Instr} {b : List Byte} (h : Decode.done i b = .ok j) : b = [] ∧ j = i := by
  cases b <;> simp_all [Decode.done]

theorem byte_of_bit {b : Byte} {v : Bool} (h : Decode.bit b = .ok v) : b = Encode.bit v := by
  unfold Decode.bit at h
  split at h
  · rename_i hb; cases h; exact hb
  · split at h
    · rename_i hb; cases h; exact hb
    · cases h

theorem bytes_of_bits {b : List Byte} {v : List Bool} (h : Decode.bits b = .ok v) : b = v.map Encode.bit := by
  induction b generalizing v with
  | nil => cases h; rfl
  | cons x r ih =>
    obtain ⟨a, h1, h2⟩ := decoded_bind h
    obtain ⟨c, h3, rfl⟩ := decoded_map h2
    rw [byte_of_bit h1, ih h3]; rfl

theorem bytes_of_words : ∀ {b : List Byte} {v : List Word}, Decode.words b = .ok v → b = beWords v
  | [],            _, h => by cases h; rfl
  | [_],           _, h => by cases h
  | hi :: lo :: r, _, h => by
    obtain ⟨a, h1, rfl⟩ := decoded_map h
    simp [beWords, ← bytes_of_words h1]

theorem bytes_of_rtuFrame {b : List Byte} {f : RtuFrame} (h : Decode.rtuFrame b = .ok f) : b = Encode.rtuFrame f := by
  match b, h with
  | _ :: _ :: _, h => cases h; rfl

theorem bytes_of_tcpFrame {b : List Byte} {f : TcpFrame} (h : Decode.tcpFrame b = .ok f) : b = Encode.tcpFrame f := by
  match b, h with
  | _ :: _ :: _ :: _ :: _ :: _ :: _, h => cases h; simp [Encode.tcpFrame]

theorem bytes_of_frame {b : List Byte} {f : Frame} (h : Decode.frame b = .ok f) : b = Encode.frame f := by
  obtain ⟨⟨k, r⟩, h1, h2⟩ := decoded_bind h
  have hb := bytes_of_byte h1
  simp only at h2
  split at h2
  · rename_i hk; obtain ⟨a, h3, rfl⟩ := decoded_map h2; rw [hb, hk, bytes_of_rtuFrame h3]; rfl
  · split at h2
    · rename_i hk; obtain ⟨a, h3, rfl⟩ := decoded_map h2; rw [hb, hk, bytes_of_tcpFrame h3]; rfl
    · cases h2

theorem bytes_of_sink {b r : List Byte} {s : SinkId} (h : Decode.sink b = .ok (s, r)) : b = Encode.sink s ++ r ∧ s.wf = true := by
  obtain ⟨⟨k, r⟩, h1, h2⟩ := decoded_bind h
  have hb := bytes_of_byte h1
  simp only at h2
  split at h2
  · rename_i hk
    obtain ⟨⟨a, c⟩, h3, h4⟩ := decoded_map h2
    cases h4
    obtain ⟨rfl, ha⟩ := bytes_of_number h3
    rw [hb, hk]; exact ⟨rfl, by simpa [SinkId.wf] using ha⟩
  · split at h2
    · rename_i hk
      obtain ⟨⟨a, c⟩, h3, h4⟩ := decoded_bind h2
      obtain ⟨⟨a', c'⟩, h5, h6⟩ := decoded_map h4
      cases h6
      obtain ⟨rfl, ha⟩ := bytes_of_number h3
      obtain ⟨rfl, ha'⟩ := bytes_of_number h5
      rw [hb, hk]
      exact ⟨by simp [Encode.sink], by simp [SinkId.wf, ha, ha']⟩
    · cases h2

theorem bytes_of_request {b : List Byte} {q : Request} (h : Decode.request b = .ok q) : b = Encode.request q ∧ q.sink.wf = true := by
  obtain ⟨⟨k, r⟩, h1, h2⟩ := decoded_bind h
  obtain ⟨a, h3, rfl⟩ := decoded_map h2
  obtain ⟨hb, hw⟩ := bytes_of_sink h1
  rw [hb, bytes_of_frame h3]; exact ⟨rfl, hw⟩

theorem bytes_of_startCount {mk : Word → Word → Instr} {b : List Byte} {i : Instr} (h : Decode.startCount mk b = .ok i) :
    ∃ start count, i = mk start count ∧ b = be16 start ++ be16 count := by
  obtain ⟨⟨k, r⟩, h1, h2⟩ := decoded_bind h
  obtain ⟨⟨k', r'⟩, h3, h4⟩ := decoded_bind h2
  obtain ⟨rfl, rfl⟩ := bytes_of_done h4
  have h5 := bytes_of_word h1
  have h6 := bytes_of_word h3
  exact ⟨k, k', rfl, by rw [h5, h6]; simp⟩

theorem bytes_of_handler {fc : Byte} {b : List Byte} {i : Instr} (h : Decode.handler fc b = .ok i) :
    ∃ hd, i = .fnSet fc hd ∧ b = Encode.handler hd ∧ Instr.wf (.fnSet fc hd) = true := by
  obtain ⟨⟨k, r⟩, h1, h2⟩ := decoded_bind h
  have hb := bytes_of_byte h1
  simp only at h2
  split at h2
  · rename_i hk
    obtain ⟨rfl, rfl⟩ := bytes_of_done h2
    exact ⟨none, rfl, by rw [hb, hk]; rfl, rfl⟩
  · split at h2
    · rename_i hk
      obtain ⟨⟨a, c⟩, h3, h4⟩ := decoded_bind h2
      obtain ⟨rfl, rfl⟩ := bytes_of_done h4
      obtain ⟨rfl, ha⟩ := bytes_of_number h3
      exact ⟨_, rfl, by rw [hb, hk]; simp [Encode.handler], by simpa [Instr.wf, HandlerId.wf] using ha⟩
    · split at h2
      · rename_i id hid
        obtain ⟨rfl, rfl⟩ := bytes_of_done h2
        have hk : k = BitVec.ofNat 8 k.toNat := by simp
        unfold Decode.stdHandler at hid
        split at hid
        all_goals first
          | cases hid; done
          | (rename_i hn; rw [hn] at hk; cases hid; exact ⟨_, rfl, by rw [hb, hk]; rfl, rfl⟩)
      · cases h2

/-- The frame of a request instruction (R91, R93), and of no other. -/
def Instr.requestFrame : Instr → Option Frame
  | .readCoils hdr data              => some (hdr.frame FnCode.readCoils.code data)
  | .readDiscreteInputs hdr data     => some (hdr.frame FnCode.readDiscreteInputs.code data)
  | .readHoldingRegisters hdr data   => some (hdr.frame FnCode.readHoldingRegisters.code data)
  | .readInputRegisters hdr data     => some (hdr.frame FnCode.readInputRegisters.code data)
  | .writeSingleCoil hdr data        => some (hdr.frame FnCode.writeSingleCoil.code data)
  | .writeSingleRegister hdr data    => some (hdr.frame FnCode.writeSingleRegister.code data)
  | .writeMultipleCoils hdr data     => some (hdr.frame FnCode.writeMultipleCoils.code data)
  | .writeMultipleRegisters hdr data => some (hdr.frame FnCode.writeMultipleRegisters.code data)
  | .unknownFunction fc hdr data     => some (hdr.frame fc data)
  | _ => none

/-- No operation of the command port is a request. -/
theorem requestFrame_operands {op : Opsel} {b : List Byte} {i : Instr} (h : Decode.operands op b = .ok i) : i.requestFrame = none := by
  cases op <;> simp only [Decode.operands] at h <;> first
    | (cases h; rfl)
    | (obtain ⟨_, rfl⟩ := bytes_of_done h; rfl)
    | (obtain ⟨_, _, rfl⟩ := decoded_map h; rfl)
    | (obtain ⟨_, _, rfl, _⟩ := bytes_of_startCount h; rfl)
    | (obtain ⟨_, _, h⟩ := decoded_bind h; first
        | (obtain ⟨_, rfl⟩ := bytes_of_done h; rfl)
        | (obtain ⟨_, _, rfl⟩ := decoded_map h; rfl)
        | (obtain ⟨_, rfl, _⟩ := bytes_of_handler h; rfl)
        | (obtain ⟨_, _, h⟩ := decoded_bind h; first
            | (split at h; · obtain ⟨_, _, rfl⟩ := decoded_map h; rfl
               · cases h)
            | (obtain ⟨_, _, h⟩ := decoded_bind h; obtain ⟨_, rfl⟩ := bytes_of_done h; rfl)))

/-- A request instruction comes from its PDU on the request port. -/
theorem request_of_decode {port : Port} {b : List Byte} {i : Instr} {f : Frame} (h : decode port b = .ok i)
    (hf : i.requestFrame = some f) : ∃ hdr fc data, port = .pdu hdr ∧ b = fc :: data ∧ f = hdr.frame fc data := by
  cases port with
  | pdu hdr =>
    cases b with
    | nil => cases h
    | cons fc data =>
      refine ⟨hdr, fc, data, rfl, rfl, ?_⟩
      simp only [decode, Decode.pdu] at h
      split at h <;> cases h <;> (injection hf with hf; subst hf) <;>
        first
        | rfl
        | (rename_i hk; rw [code_of_fnOfCode hk])
  | response hdr =>
    exfalso
    cases b with
    | nil => cases h
    | cons fc rest =>
      simp only [decode, Decode.response] at h
      split at h
      · obtain ⟨_, _, h⟩ := decoded_bind h; obtain ⟨_, rfl⟩ := bytes_of_done h; cases hf
      · cases h
  | command =>
    exfalso
    cases b with
    | nil => cases h
    | cons op rest =>
      simp only [decode, Decode.command] at h
      split at h
      · rw [requestFrame_operands h] at hf; cases hf
      · cases h; cases hf

end Sys2Proof
end

