-- ==== Sys2Proof/Laws/Memory.lean ====
section
/-! SUPPORT. Laws of the bank spaces (R39, R66, R73): a read after a write gives the value written, a write leaves every other entry
alone, every operation keeps the canonical form, and equal contents are equal data; then the same of the bank calls. -/

namespace Sys2Proof

namespace Memory

section

variable {α : Type} [Inhabited α]

@[simp] theorem read_nil (x : Nat) : read ([] : Memory α) x = unlisted α := rfl

@[simp] theorem readMany_length (m : Memory α) (start count : Nat) : (readMany m start count).length = count := by
  induction count generalizing start with
  | zero => rfl
  | succ n ih => simp [readMany, ih]

theorem readMany_getD (m : Memory α) {start count i : Nat} (hi : i < count) :
    (readMany m start count).getD i (unlisted α) = read m (start + i) := by
  induction count generalizing start i with
  | zero => omega
  | succ n ih =>
    cases i with
    | zero => simp [readMany]
    | succ i => simp only [readMany, List.getD_cons_succ]; rw [ih (by omega)]; congr 1; omega

theorem readMany_eq_map (m : Memory α) (start count : Nat) :
    readMany m start count = (List.range count).map fun i => read m (start + i) := by
  induction count generalizing start with
  | zero => rfl
  | succ n ih =>
    rw [readMany, ih, List.range_succ_eq_map]
    simp only [List.map_cons, List.map_map, Nat.add_zero]
    congr 1
    apply List.map_congr_left
    intro i _
    simp [Function.comp, Nat.add_assoc, Nat.add_comm 1]

end

variable {α : Type} [Inhabited α] [DecidableEq α]

theorem wfFrom_mono {lo lo' : Nat} {m : Memory α} (h : wfFrom lo m = true) (hle : lo' ≤ lo) : wfFrom lo' m = true := by
  cases m with
  | nil => rfl
  | cons c rest =>
    obtain ⟨a, v⟩ := c
    simp only [wfFrom, Bool.and_eq_true, decide_eq_true_eq] at h ⊢
    exact ⟨⟨⟨by omega, h.1.1.2⟩, h.1.2⟩, h.2⟩

/-- Below its lower bound a space lists nothing. -/
theorem read_below {lo : Nat} {m : Memory α} (h : wfFrom lo m = true) {x : Nat} (hx : x < lo) : read m x = unlisted α := by
  induction m generalizing lo with
  | nil => rfl
  | cons c rest ih =>
    obtain ⟨a, v⟩ := c
    simp only [wfFrom, Bool.and_eq_true, decide_eq_true_eq] at h
    have : a ≠ x := by omega
    simp only [read, this, ite_false]
    exact ih h.2 (by omega)

theorem write_wfFrom {lo : Nat} {m : Memory α} (h : wfFrom lo m = true) {x : Nat} (hlo : lo ≤ x)
    (hx : x < Config.addrSpaceSize) (v : α) : wfFrom lo (write m x v) = true := by
  induction m generalizing lo with
  | nil =>
    by_cases hv : v = unlisted α
    · simp [write, hv, wfFrom]
    · simp only [write, hv, if_false, wfFrom]
      simp [hlo, hx, hv]
  | cons c rest ih =>
    obtain ⟨a, w⟩ := c
    simp only [wfFrom, Bool.and_eq_true, decide_eq_true_eq] at h
    obtain ⟨⟨⟨h1, h2⟩, h3⟩, h4⟩ := h
    simp only [write]
    split
    · split
      · simp [wfFrom, h1, h2, h3, h4]
      · rename_i hxa hv
        simp only [wfFrom, Bool.and_eq_true, decide_eq_true_eq]
        exact ⟨⟨⟨hlo, hx⟩, hv⟩, ⟨⟨by omega, h2⟩, h3⟩, h4⟩
    · split
      · split
        · exact wfFrom_mono h4 (by omega)
        · rename_i hv
          simp only [wfFrom, Bool.and_eq_true, decide_eq_true_eq]
          exact ⟨⟨⟨h1, h2⟩, hv⟩, h4⟩
      · simp only [wfFrom, Bool.and_eq_true, decide_eq_true_eq]
        exact ⟨⟨⟨h1, h2⟩, h3⟩, ih h4 (by omega)⟩

/-- A write inside the space keeps the canonical form. -/
theorem write_wf {m : Memory α} (h : wf m = true) {x : Nat} (hx : x < Config.addrSpaceSize) (v : α) : wf (write m x v) = true :=
  write_wfFrom h (by omega) hx v

/-- What every address of a canonical space reads after a write. -/
theorem read_writeFrom {lo : Nat} {m : Memory α} (h : wfFrom lo m = true) (x y : Nat) (v : α) :
    read (write m x v) y = if y = x then v else read m y := by
  induction m generalizing lo with
  | nil =>
    by_cases hv : v = unlisted α
    · simp [write, hv]
    · simp [write, hv, read, eq_comm]
  | cons c rest ih =>
    obtain ⟨a, w⟩ := c
    simp only [wfFrom, Bool.and_eq_true, decide_eq_true_eq] at h
    obtain ⟨⟨⟨h1, h2⟩, h3⟩, h4⟩ := h
    simp only [write]
    by_cases hyx : y = x
    · subst hyx
      simp only [if_true]
      split
      · rename_i hlt
        split
        · rename_i hv
          simp only [read, show a ≠ y by omega, if_false]
          rw [read_below h4 (by omega), hv]
        · simp [read]
      · split
        · rename_i hxa
          split
          · rename_i hv; rw [read_below h4 (by omega), hv]
          · simp [read, hxa]
        · rename_i hxa
          simp [read, show a ≠ y by omega, ih h4]
    · simp only [hyx, if_false]
      split
      · split
        · rfl
        · simp [read, show x ≠ y by omega]
      · split
        · rename_i hxa
          split
          · simp [read, show a ≠ y by omega]
          · simp [read, show a ≠ y by omega]
        · simp [read, ih h4, hyx]

theorem read_write {m : Memory α} (h : wf m = true) (x y : Nat) (v : α) :
    read (write m x v) y = if y = x then v else read m y := read_writeFrom h x y v

theorem writeMany_wf {m : Memory α} (h : wf m = true) {start : Nat} {vs : List α}
    (hr : start + vs.length ≤ Config.addrSpaceSize) : wf (writeMany m start vs) = true := by
  induction vs generalizing m start with
  | nil => exact h
  | cons v vs ih =>
    simp only [List.length_cons] at hr
    exact ih (write_wf h (by omega) v) (by omega)

/-- What every address of a canonical space reads after a multiple write. -/
theorem read_writeMany {m : Memory α} (h : wf m = true) {start : Nat} {vs : List α}
    (hr : start + vs.length ≤ Config.addrSpaceSize) (y : Nat) :
    read (writeMany m start vs) y = if start ≤ y ∧ y < start + vs.length then vs.getD (y - start) (unlisted α) else read m y := by
  induction vs generalizing m start with
  | nil => simp [writeMany, show ¬(start ≤ y ∧ y < start) by omega]
  | cons v vs ih =>
    simp only [List.length_cons] at hr
    rw [writeMany, ih (write_wf h (by omega) v) (by omega), read_write h]
    by_cases hy : y = start
    · subst hy; simp
    · by_cases hin : start + 1 ≤ y ∧ y < start + 1 + vs.length
      · simp only [hin, and_self, if_true, List.length_cons, show start ≤ y ∧ y < start + (vs.length + 1) by omega]
        obtain ⟨k, rfl⟩ : ∃ k, y = start + 1 + k := ⟨y - (start + 1), by omega⟩
        simp [show start + 1 + k - start = k + 1 by omega]
      · simp only [hin, if_false, hy, List.length_cons, show ¬(start ≤ y ∧ y < start + (vs.length + 1)) by omega]

/-- Two canonical spaces that read alike are equal data. -/
theorem ext_of_read {lo : Nat} {m m' : Memory α} (h : wfFrom lo m = true) (h' : wfFrom lo m' = true)
    (hr : ∀ x, read m x = read m' x) : m = m' := by
  induction m generalizing lo m' with
  | nil =>
    cases m' with
    | nil => rfl
    | cons c rest =>
      obtain ⟨a, v⟩ := c
      simp only [wfFrom, Bool.and_eq_true, decide_eq_true_eq] at h'
      have := hr a
      simp [read] at this
      exact absurd this.symm h'.1.2
  | cons c rest ih =>
    obtain ⟨a, v⟩ := c
    have hc := h
    simp only [wfFrom, Bool.and_eq_true, decide_eq_true_eq] at hc
    cases m' with
    | nil =>
      have := hr a
      simp [read] at this
      exact absurd this hc.1.2
    | cons c' rest' =>
      obtain ⟨a', v'⟩ := c'
      have hc' := h'
      simp only [wfFrom, Bool.and_eq_true, decide_eq_true_eq] at hc'
      have haa : a = a' := by
        rcases Nat.lt_trichotomy a a' with hlt | heq | hgt
        · exfalso
          have h1 := hr a
          simp only [read, if_true, show a' ≠ a by omega, if_false] at h1
          rw [read_below hc'.2 (by omega)] at h1
          exact hc.1.2 h1
        · exact heq
        · exfalso
          have h1 := hr a'
          simp only [read, if_true, show a ≠ a' by omega, if_false] at h1
          rw [read_below hc.2 (by omega)] at h1
          exact hc'.1.2 h1.symm
      subst haa
      have hv : v = v' := by simpa [read] using hr a
      subst hv
      rw [ih hc.2 hc'.2]
      intro x
      by_cases hx : x < a + 1
      · rw [read_below hc.2 hx, read_below hc'.2 hx]
      · simpa [read, show a ≠ x by omega] using hr x

end Memory

open Sys2Proof.Machine

theorem rangePassesEnd_false {start : Word} {n : Nat} :
    rangePassesEnd start n = false ↔ start.toNat + n ≤ Config.addrSpaceSize := by
  simp [rangePassesEnd]

/-! Every bank call keeps the canonical form. -/

theorem Bank.writeSingleCoil_wf {b : Bank} (h : b.wf = true) (addr : Word) (v : Bool) : (b.writeSingleCoil addr v).bank.wf = true := by
  cases b with
  | custom st last => rfl
  | default a =>
    simp only [Bank.wf, Bool.and_eq_true] at h ⊢
    simp only [Bank.writeSingleCoil, Bool.and_eq_true]
    exact ⟨⟨⟨Memory.write_wf h.1.1.1 addr.isLt v, h.1.1.2⟩, h.1.2⟩, h.2⟩

theorem Bank.writeSingleRegister_wf {b : Bank} (h : b.wf = true) (addr v : Word) :
    (b.writeSingleRegister addr v).bank.wf = true := by
  cases b with
  | custom st last => rfl
  | default a =>
    simp only [Bank.wf, Bool.and_eq_true] at h ⊢
    simp only [Bank.writeSingleRegister, Bool.and_eq_true]
    exact ⟨⟨⟨h.1.1.1, h.1.1.2⟩, Memory.write_wf h.1.2 addr.isLt v⟩, h.2⟩

theorem Bank.writeMultipleCoils_wf {b : Bank} (h : b.wf = true) (start : Word) (bits : List Bool) :
    (b.writeMultipleCoils start bits).bank.wf = true := by
  cases b with
  | custom st last => rfl
  | default a =>
    simp only [Bank.writeMultipleCoils]
    split
    · exact h
    · rename_i hr
      have hr' := rangePassesEnd_false.1 (by simpa using hr)
      simp only [Bank.wf, Bool.and_eq_true] at h ⊢
      exact ⟨⟨⟨Memory.writeMany_wf h.1.1.1 hr', h.1.1.2⟩, h.1.2⟩, h.2⟩

theorem Bank.writeMultipleRegisters_wf {b : Bank} (h : b.wf = true) (start : Word) (words : List Word) :
    (b.writeMultipleRegisters start words).bank.wf = true := by
  cases b with
  | custom st last => rfl
  | default a =>
    simp only [Bank.writeMultipleRegisters]
    split
    · exact h
    · rename_i hr
      have hr' := rangePassesEnd_false.1 (by simpa using hr)
      simp only [Bank.wf, Bool.and_eq_true] at h ⊢
      exact ⟨⟨⟨h.1.1.1, h.1.1.2⟩, Memory.writeMany_wf h.1.2 hr'⟩, h.2⟩

/-- A read changes nothing of the default bank, and a custom bank has no space here. -/
theorem Bank.read_wf {b : Bank} (h : b.wf = true) (start count : Word) :
    (b.readCoils start count).bank.wf = true ∧ (b.readDiscreteInputs start count).bank.wf = true ∧
    (b.readHoldingRegisters start count).bank.wf = true ∧ (b.readInputRegisters start count).bank.wf = true := by
  cases b with
  | custom st last => exact ⟨rfl, rfl, rfl, rfl⟩
  | default a => exact ⟨h, h, h, h⟩

theorem Bank.call_wf {b : Bank} (h : b.wf = true) (c : BankCall) : (b.call c).wf = true := by
  cases c with
  | readCoils start count => exact (Bank.read_wf h start count).1
  | readDiscreteInputs start count => exact (Bank.read_wf h start count).2.1
  | readHoldingRegisters start count => exact (Bank.read_wf h start count).2.2.1
  | readInputRegisters start count => exact (Bank.read_wf h start count).2.2.2
  | writeSingleCoil addr v => exact Bank.writeSingleCoil_wf h addr v
  | writeSingleRegister addr v => exact Bank.writeSingleRegister_wf h addr v
  | writeMultipleCoils start bits => exact Bank.writeMultipleCoils_wf h start bits
  | writeMultipleRegisters start words => exact Bank.writeMultipleRegisters_wf h start words

theorem Bank.calls_wf {b : Bank} (h : b.wf = true) (cs : List BankCall) : (b.calls cs).wf = true := by
  induction cs generalizing b with
  | nil => exact h
  | cons c cs ih => exact ih (Bank.call_wf h c)

/-- The reset bank is in the canonical form. -/
theorem Bank.zero_wf : Bank.zero.wf = true := rfl

end Sys2Proof
end

