-- ==== Sys2Proof/Laws/State.lean ====
section
/-! SUPPORT. One lemma per field per update of the state, each true by definition, so that no proof unfolds a record update. -/

namespace Sys2Proof.Machine

variable (s : State)

/-! `State.raise`. -/

@[simp] theorem State.raise_crc (f : BlockFault) : (s.raise f).crc = s.crc := rfl
@[simp] theorem State.raise_crcLoaded (f : BlockFault) : (s.raise f).crcLoaded = s.crcLoaded := rfl
@[simp] theorem State.raise_ft (f : BlockFault) : (s.raise f).ft = s.ft := rfl
@[simp] theorem State.raise_bank (f : BlockFault) : (s.raise f).bank = s.bank := rfl
@[simp] theorem State.raise_queue (f : BlockFault) : (s.raise f).queue = s.queue := rfl
@[simp] theorem State.raise_close (f : BlockFault) : (s.raise f).close = s.close := rfl
@[simp] theorem State.raise_life (f : BlockFault) : (s.raise f).life = s.life := rfl
@[simp] theorem State.raise_dstate (f : BlockFault) : (s.raise f).dstate = s.dstate := rfl
@[simp] theorem State.raise_listeners (f : BlockFault) : (s.raise f).listeners = s.listeners := rfl
@[simp] theorem State.raise_ports (f : BlockFault) : (s.raise f).ports = s.ports := rfl
@[simp] theorem State.raise_fault (f : BlockFault) : (s.raise f).fault = some f := rfl
@[simp] theorem State.raise_cfg (f : BlockFault) : (s.raise f).cfg = s.cfg := rfl
@[simp] theorem State.raise_result (f : BlockFault) : (s.raise f).result = s.result := rfl
@[simp] theorem State.raise_inputs (f : BlockFault) : (s.raise f).inputs = s.inputs := rfl
@[simp] theorem State.raise_draws (f : BlockFault) : (s.raise f).draws = s.draws := rfl

/-! `State.loadCrc`. -/

@[simp] theorem State.loadCrc_crc (c : Word) : (s.loadCrc c).crc = c := rfl
@[simp] theorem State.loadCrc_crcLoaded (c : Word) : (s.loadCrc c).crcLoaded = true := rfl
@[simp] theorem State.loadCrc_ft (c : Word) : (s.loadCrc c).ft = s.ft := rfl
@[simp] theorem State.loadCrc_bank (c : Word) : (s.loadCrc c).bank = s.bank := rfl
@[simp] theorem State.loadCrc_queue (c : Word) : (s.loadCrc c).queue = s.queue := rfl
@[simp] theorem State.loadCrc_close (c : Word) : (s.loadCrc c).close = s.close := rfl
@[simp] theorem State.loadCrc_life (c : Word) : (s.loadCrc c).life = s.life := rfl
@[simp] theorem State.loadCrc_dstate (c : Word) : (s.loadCrc c).dstate = s.dstate := rfl
@[simp] theorem State.loadCrc_listeners (c : Word) : (s.loadCrc c).listeners = s.listeners := rfl
@[simp] theorem State.loadCrc_ports (c : Word) : (s.loadCrc c).ports = s.ports := rfl
@[simp] theorem State.loadCrc_fault (c : Word) : (s.loadCrc c).fault = s.fault := rfl
@[simp] theorem State.loadCrc_cfg (c : Word) : (s.loadCrc c).cfg = s.cfg := rfl
@[simp] theorem State.loadCrc_result (c : Word) : (s.loadCrc c).result = s.result := rfl
@[simp] theorem State.loadCrc_inputs (c : Word) : (s.loadCrc c).inputs = s.inputs := rfl
@[simp] theorem State.loadCrc_draws (c : Word) : (s.loadCrc c).draws = s.draws := rfl

/-! `State.setSlot`. -/

@[simp] theorem State.setSlot_crc (fc : Byte) (h : Option HandlerId) : (s.setSlot fc h).crc = s.crc := rfl
@[simp] theorem State.setSlot_crcLoaded (fc : Byte) (h : Option HandlerId) : (s.setSlot fc h).crcLoaded = s.crcLoaded := rfl
@[simp] theorem State.setSlot_ft (fc : Byte) (h : Option HandlerId) : (s.setSlot fc h).ft = s.ft.set fc.toNat h fc.isLt := rfl
@[simp] theorem State.setSlot_bank (fc : Byte) (h : Option HandlerId) : (s.setSlot fc h).bank = s.bank := rfl
@[simp] theorem State.setSlot_queue (fc : Byte) (h : Option HandlerId) : (s.setSlot fc h).queue = s.queue := rfl
@[simp] theorem State.setSlot_close (fc : Byte) (h : Option HandlerId) : (s.setSlot fc h).close = s.close := rfl
@[simp] theorem State.setSlot_life (fc : Byte) (h : Option HandlerId) : (s.setSlot fc h).life = s.life := rfl
@[simp] theorem State.setSlot_dstate (fc : Byte) (h : Option HandlerId) : (s.setSlot fc h).dstate = s.dstate := rfl
@[simp] theorem State.setSlot_listeners (fc : Byte) (h : Option HandlerId) : (s.setSlot fc h).listeners = s.listeners := rfl
@[simp] theorem State.setSlot_ports (fc : Byte) (h : Option HandlerId) : (s.setSlot fc h).ports = s.ports := rfl
@[simp] theorem State.setSlot_fault (fc : Byte) (h : Option HandlerId) : (s.setSlot fc h).fault = s.fault := rfl
@[simp] theorem State.setSlot_cfg (fc : Byte) (h : Option HandlerId) : (s.setSlot fc h).cfg = s.cfg := rfl
@[simp] theorem State.setSlot_result (fc : Byte) (h : Option HandlerId) : (s.setSlot fc h).result = s.result := rfl
@[simp] theorem State.setSlot_inputs (fc : Byte) (h : Option HandlerId) : (s.setSlot fc h).inputs = s.inputs := rfl
@[simp] theorem State.setSlot_draws (fc : Byte) (h : Option HandlerId) : (s.setSlot fc h).draws = s.draws := rfl

/-! `State.setBank`. -/

@[simp] theorem State.setBank_crc (b : Bank) : (s.setBank b).crc = s.crc := rfl
@[simp] theorem State.setBank_crcLoaded (b : Bank) : (s.setBank b).crcLoaded = s.crcLoaded := rfl
@[simp] theorem State.setBank_ft (b : Bank) : (s.setBank b).ft = s.ft := rfl
@[simp] theorem State.setBank_bank (b : Bank) : (s.setBank b).bank = b := rfl
@[simp] theorem State.setBank_queue (b : Bank) : (s.setBank b).queue = s.queue := rfl
@[simp] theorem State.setBank_close (b : Bank) : (s.setBank b).close = s.close := rfl
@[simp] theorem State.setBank_life (b : Bank) : (s.setBank b).life = s.life := rfl
@[simp] theorem State.setBank_dstate (b : Bank) : (s.setBank b).dstate = s.dstate := rfl
@[simp] theorem State.setBank_listeners (b : Bank) : (s.setBank b).listeners = s.listeners := rfl
@[simp] theorem State.setBank_ports (b : Bank) : (s.setBank b).ports = s.ports := rfl
@[simp] theorem State.setBank_fault (b : Bank) : (s.setBank b).fault = s.fault := rfl
@[simp] theorem State.setBank_cfg (b : Bank) : (s.setBank b).cfg = s.cfg := rfl
@[simp] theorem State.setBank_result (b : Bank) : (s.setBank b).result = s.result := rfl
@[simp] theorem State.setBank_inputs (b : Bank) : (s.setBank b).inputs = s.inputs := rfl
@[simp] theorem State.setBank_draws (b : Bank) : (s.setBank b).draws = s.draws := rfl

/-! `State.setQueue`. -/

@[simp] theorem State.setQueue_crc (q : List Request) : (s.setQueue q).crc = s.crc := rfl
@[simp] theorem State.setQueue_crcLoaded (q : List Request) : (s.setQueue q).crcLoaded = s.crcLoaded := rfl
@[simp] theorem State.setQueue_ft (q : List Request) : (s.setQueue q).ft = s.ft := rfl
@[simp] theorem State.setQueue_bank (q : List Request) : (s.setQueue q).bank = s.bank := rfl
@[simp] theorem State.setQueue_queue (q : List Request) : (s.setQueue q).queue = q := rfl
@[simp] theorem State.setQueue_close (q : List Request) : (s.setQueue q).close = s.close := rfl
@[simp] theorem State.setQueue_life (q : List Request) : (s.setQueue q).life = s.life := rfl
@[simp] theorem State.setQueue_dstate (q : List Request) : (s.setQueue q).dstate = s.dstate := rfl
@[simp] theorem State.setQueue_listeners (q : List Request) : (s.setQueue q).listeners = s.listeners := rfl
@[simp] theorem State.setQueue_ports (q : List Request) : (s.setQueue q).ports = s.ports := rfl
@[simp] theorem State.setQueue_fault (q : List Request) : (s.setQueue q).fault = s.fault := rfl
@[simp] theorem State.setQueue_cfg (q : List Request) : (s.setQueue q).cfg = s.cfg := rfl
@[simp] theorem State.setQueue_result (q : List Request) : (s.setQueue q).result = s.result := rfl
@[simp] theorem State.setQueue_inputs (q : List Request) : (s.setQueue q).inputs = s.inputs := rfl
@[simp] theorem State.setQueue_draws (q : List Request) : (s.setQueue q).draws = s.draws := rfl

/-! `State.setDispatcher`. -/

@[simp] theorem State.setDispatcher_crc (d : DispState) : (s.setDispatcher d).crc = s.crc := rfl
@[simp] theorem State.setDispatcher_crcLoaded (d : DispState) : (s.setDispatcher d).crcLoaded = s.crcLoaded := rfl
@[simp] theorem State.setDispatcher_ft (d : DispState) : (s.setDispatcher d).ft = s.ft := rfl
@[simp] theorem State.setDispatcher_bank (d : DispState) : (s.setDispatcher d).bank = s.bank := rfl
@[simp] theorem State.setDispatcher_queue (d : DispState) : (s.setDispatcher d).queue = s.queue := rfl
@[simp] theorem State.setDispatcher_close (d : DispState) : (s.setDispatcher d).close = s.close := rfl
@[simp] theorem State.setDispatcher_life (d : DispState) : (s.setDispatcher d).life = s.life := rfl
@[simp] theorem State.setDispatcher_dstate (d : DispState) : (s.setDispatcher d).dstate = d := rfl
@[simp] theorem State.setDispatcher_listeners (d : DispState) : (s.setDispatcher d).listeners = s.listeners := rfl
@[simp] theorem State.setDispatcher_ports (d : DispState) : (s.setDispatcher d).ports = s.ports := rfl
@[simp] theorem State.setDispatcher_fault (d : DispState) : (s.setDispatcher d).fault = s.fault := rfl
@[simp] theorem State.setDispatcher_cfg (d : DispState) : (s.setDispatcher d).cfg = s.cfg := rfl
@[simp] theorem State.setDispatcher_result (d : DispState) : (s.setDispatcher d).result = s.result := rfl
@[simp] theorem State.setDispatcher_inputs (d : DispState) : (s.setDispatcher d).inputs = s.inputs := rfl
@[simp] theorem State.setDispatcher_draws (d : DispState) : (s.setDispatcher d).draws = s.draws := rfl

/-! `State.setLife`. -/

@[simp] theorem State.setLife_crc (l : Life) : (s.setLife l).crc = s.crc := rfl
@[simp] theorem State.setLife_crcLoaded (l : Life) : (s.setLife l).crcLoaded = s.crcLoaded := rfl
@[simp] theorem State.setLife_ft (l : Life) : (s.setLife l).ft = s.ft := rfl
@[simp] theorem State.setLife_bank (l : Life) : (s.setLife l).bank = s.bank := rfl
@[simp] theorem State.setLife_queue (l : Life) : (s.setLife l).queue = s.queue := rfl
@[simp] theorem State.setLife_close (l : Life) : (s.setLife l).close = s.close := rfl
@[simp] theorem State.setLife_life (l : Life) : (s.setLife l).life = l := rfl
@[simp] theorem State.setLife_dstate (l : Life) : (s.setLife l).dstate = s.dstate := rfl
@[simp] theorem State.setLife_listeners (l : Life) : (s.setLife l).listeners = s.listeners := rfl
@[simp] theorem State.setLife_ports (l : Life) : (s.setLife l).ports = s.ports := rfl
@[simp] theorem State.setLife_fault (l : Life) : (s.setLife l).fault = s.fault := rfl
@[simp] theorem State.setLife_cfg (l : Life) : (s.setLife l).cfg = s.cfg := rfl
@[simp] theorem State.setLife_result (l : Life) : (s.setLife l).result = s.result := rfl
@[simp] theorem State.setLife_inputs (l : Life) : (s.setLife l).inputs = s.inputs := rfl
@[simp] theorem State.setLife_draws (l : Life) : (s.setLife l).draws = s.draws := rfl

/-! `State.setClose`. -/

@[simp] theorem State.setClose_crc : s.setClose.crc = s.crc := rfl
@[simp] theorem State.setClose_crcLoaded : s.setClose.crcLoaded = s.crcLoaded := rfl
@[simp] theorem State.setClose_ft : s.setClose.ft = s.ft := rfl
@[simp] theorem State.setClose_bank : s.setClose.bank = s.bank := rfl
@[simp] theorem State.setClose_queue : s.setClose.queue = s.queue := rfl
@[simp] theorem State.setClose_close : s.setClose.close = true := rfl
@[simp] theorem State.setClose_life : s.setClose.life = s.life := rfl
@[simp] theorem State.setClose_dstate : s.setClose.dstate = s.dstate := rfl
@[simp] theorem State.setClose_listeners : s.setClose.listeners = s.listeners := rfl
@[simp] theorem State.setClose_ports : s.setClose.ports = s.ports := rfl
@[simp] theorem State.setClose_fault : s.setClose.fault = s.fault := rfl
@[simp] theorem State.setClose_cfg : s.setClose.cfg = s.cfg := rfl
@[simp] theorem State.setClose_result : s.setClose.result = s.result := rfl
@[simp] theorem State.setClose_inputs : s.setClose.inputs = s.inputs := rfl
@[simp] theorem State.setClose_draws : s.setClose.draws = s.draws := rfl

/-! `State.setListeners`. -/

@[simp] theorem State.setListeners_crc (ls : List Listener) : (s.setListeners ls).crc = s.crc := rfl
@[simp] theorem State.setListeners_crcLoaded (ls : List Listener) : (s.setListeners ls).crcLoaded = s.crcLoaded := rfl
@[simp] theorem State.setListeners_ft (ls : List Listener) : (s.setListeners ls).ft = s.ft := rfl
@[simp] theorem State.setListeners_bank (ls : List Listener) : (s.setListeners ls).bank = s.bank := rfl
@[simp] theorem State.setListeners_queue (ls : List Listener) : (s.setListeners ls).queue = s.queue := rfl
@[simp] theorem State.setListeners_close (ls : List Listener) : (s.setListeners ls).close = s.close := rfl
@[simp] theorem State.setListeners_life (ls : List Listener) : (s.setListeners ls).life = s.life := rfl
@[simp] theorem State.setListeners_dstate (ls : List Listener) : (s.setListeners ls).dstate = s.dstate := rfl
@[simp] theorem State.setListeners_listeners (ls : List Listener) : (s.setListeners ls).listeners = ls := rfl
@[simp] theorem State.setListeners_ports (ls : List Listener) : (s.setListeners ls).ports = s.ports := rfl
@[simp] theorem State.setListeners_fault (ls : List Listener) : (s.setListeners ls).fault = s.fault := rfl
@[simp] theorem State.setListeners_cfg (ls : List Listener) : (s.setListeners ls).cfg = s.cfg := rfl
@[simp] theorem State.setListeners_result (ls : List Listener) : (s.setListeners ls).result = s.result := rfl
@[simp] theorem State.setListeners_inputs (ls : List Listener) : (s.setListeners ls).inputs = s.inputs := rfl
@[simp] theorem State.setListeners_draws (ls : List Listener) : (s.setListeners ls).draws = s.draws := rfl

/-! `State.setPorts`. -/

@[simp] theorem State.setPorts_crc (ps : List SerialPort) : (s.setPorts ps).crc = s.crc := rfl
@[simp] theorem State.setPorts_crcLoaded (ps : List SerialPort) : (s.setPorts ps).crcLoaded = s.crcLoaded := rfl
@[simp] theorem State.setPorts_ft (ps : List SerialPort) : (s.setPorts ps).ft = s.ft := rfl
@[simp] theorem State.setPorts_bank (ps : List SerialPort) : (s.setPorts ps).bank = s.bank := rfl
@[simp] theorem State.setPorts_queue (ps : List SerialPort) : (s.setPorts ps).queue = s.queue := rfl
@[simp] theorem State.setPorts_close (ps : List SerialPort) : (s.setPorts ps).close = s.close := rfl
@[simp] theorem State.setPorts_life (ps : List SerialPort) : (s.setPorts ps).life = s.life := rfl
@[simp] theorem State.setPorts_dstate (ps : List SerialPort) : (s.setPorts ps).dstate = s.dstate := rfl
@[simp] theorem State.setPorts_listeners (ps : List SerialPort) : (s.setPorts ps).listeners = s.listeners := rfl
@[simp] theorem State.setPorts_ports (ps : List SerialPort) : (s.setPorts ps).ports = ps := rfl
@[simp] theorem State.setPorts_fault (ps : List SerialPort) : (s.setPorts ps).fault = s.fault := rfl
@[simp] theorem State.setPorts_cfg (ps : List SerialPort) : (s.setPorts ps).cfg = s.cfg := rfl
@[simp] theorem State.setPorts_result (ps : List SerialPort) : (s.setPorts ps).result = s.result := rfl
@[simp] theorem State.setPorts_inputs (ps : List SerialPort) : (s.setPorts ps).inputs = s.inputs := rfl
@[simp] theorem State.setPorts_draws (ps : List SerialPort) : (s.setPorts ps).draws = s.draws := rfl

/-! `State.report`. -/

@[simp] theorem State.report_crc (r : Result) : (s.report r).crc = s.crc := rfl
@[simp] theorem State.report_crcLoaded (r : Result) : (s.report r).crcLoaded = s.crcLoaded := rfl
@[simp] theorem State.report_ft (r : Result) : (s.report r).ft = s.ft := rfl
@[simp] theorem State.report_bank (r : Result) : (s.report r).bank = s.bank := rfl
@[simp] theorem State.report_queue (r : Result) : (s.report r).queue = s.queue := rfl
@[simp] theorem State.report_close (r : Result) : (s.report r).close = s.close := rfl
@[simp] theorem State.report_life (r : Result) : (s.report r).life = s.life := rfl
@[simp] theorem State.report_dstate (r : Result) : (s.report r).dstate = s.dstate := rfl
@[simp] theorem State.report_listeners (r : Result) : (s.report r).listeners = s.listeners := rfl
@[simp] theorem State.report_ports (r : Result) : (s.report r).ports = s.ports := rfl
@[simp] theorem State.report_fault (r : Result) : (s.report r).fault = s.fault := rfl
@[simp] theorem State.report_cfg (r : Result) : (s.report r).cfg = s.cfg := rfl
@[simp] theorem State.report_result (r : Result) : (s.report r).result = r := rfl
@[simp] theorem State.report_inputs (r : Result) : (s.report r).inputs = s.inputs := rfl
@[simp] theorem State.report_draws (r : Result) : (s.report r).draws = s.draws := rfl

/-! `State.setInputs`. -/

@[simp] theorem State.setInputs_crc (is : List Input) : (s.setInputs is).crc = s.crc := rfl
@[simp] theorem State.setInputs_crcLoaded (is : List Input) : (s.setInputs is).crcLoaded = s.crcLoaded := rfl
@[simp] theorem State.setInputs_ft (is : List Input) : (s.setInputs is).ft = s.ft := rfl
@[simp] theorem State.setInputs_bank (is : List Input) : (s.setInputs is).bank = s.bank := rfl
@[simp] theorem State.setInputs_queue (is : List Input) : (s.setInputs is).queue = s.queue := rfl
@[simp] theorem State.setInputs_close (is : List Input) : (s.setInputs is).close = s.close := rfl
@[simp] theorem State.setInputs_life (is : List Input) : (s.setInputs is).life = s.life := rfl
@[simp] theorem State.setInputs_dstate (is : List Input) : (s.setInputs is).dstate = s.dstate := rfl
@[simp] theorem State.setInputs_listeners (is : List Input) : (s.setInputs is).listeners = s.listeners := rfl
@[simp] theorem State.setInputs_ports (is : List Input) : (s.setInputs is).ports = s.ports := rfl
@[simp] theorem State.setInputs_fault (is : List Input) : (s.setInputs is).fault = s.fault := rfl
@[simp] theorem State.setInputs_cfg (is : List Input) : (s.setInputs is).cfg = s.cfg := rfl
@[simp] theorem State.setInputs_result (is : List Input) : (s.setInputs is).result = s.result := rfl
@[simp] theorem State.setInputs_inputs (is : List Input) : (s.setInputs is).inputs = is := rfl
@[simp] theorem State.setInputs_draws (is : List Input) : (s.setInputs is).draws = s.draws := rfl

/-! `State.countDraw`. -/

@[simp] theorem State.countDraw_crc : s.countDraw.crc = s.crc := rfl
@[simp] theorem State.countDraw_crcLoaded : s.countDraw.crcLoaded = s.crcLoaded := rfl
@[simp] theorem State.countDraw_ft : s.countDraw.ft = s.ft := rfl
@[simp] theorem State.countDraw_bank : s.countDraw.bank = s.bank := rfl
@[simp] theorem State.countDraw_queue : s.countDraw.queue = s.queue := rfl
@[simp] theorem State.countDraw_close : s.countDraw.close = s.close := rfl
@[simp] theorem State.countDraw_life : s.countDraw.life = s.life := rfl
@[simp] theorem State.countDraw_dstate : s.countDraw.dstate = s.dstate := rfl
@[simp] theorem State.countDraw_listeners : s.countDraw.listeners = s.listeners := rfl
@[simp] theorem State.countDraw_ports : s.countDraw.ports = s.ports := rfl
@[simp] theorem State.countDraw_fault : s.countDraw.fault = s.fault := rfl
@[simp] theorem State.countDraw_cfg : s.countDraw.cfg = s.cfg := rfl
@[simp] theorem State.countDraw_result : s.countDraw.result = s.result := rfl
@[simp] theorem State.countDraw_inputs : s.countDraw.inputs = s.inputs := rfl
@[simp] theorem State.countDraw_draws : s.countDraw.draws = s.draws + 1 := rfl

end Sys2Proof.Machine
end

