-- ==== Sys2Proof/Laws/Sources.lean ====
section
/-! SUPPORT. Laws of the sources: what an operation on one source leaves of the state (every field but the listeners and the ports)
and of the other sources, and what a step of one source can do. -/

namespace Sys2Proof.Machine

/-! Each operation on a source writes the listeners and the ports only. -/

theorem State.setConn_eq (l n : Nat) (c : Conn) (s : State) : ∃ ls, s.setConn l n c = s.setListeners ls := by
  unfold State.setConn
  split
  · exact ⟨_, rfl⟩
  · exact ⟨s.listeners, rfl⟩

theorem State.writeBack_eq (bytes : List Byte) (sink : SinkId) (s : State) :
    ∃ ls ps, s.writeBack bytes sink = (s.setListeners ls).setPorts ps := by
  unfold State.writeBack
  split <;> split
  · obtain ⟨ls, h⟩ := s.setConn_eq _ _ _; exact ⟨ls, s.ports, h⟩
  · exact ⟨s.listeners, s.ports, rfl⟩
  · exact ⟨s.listeners, _, rfl⟩
  · exact ⟨s.listeners, s.ports, rfl⟩

theorem State.startWait_eq (sink : SinkId) (req : Request) (s : State) :
    ∃ ls ps, s.startWait sink req = (s.setListeners ls).setPorts ps := by
  unfold State.startWait
  split <;> split
  · obtain ⟨ls, h⟩ := s.setConn_eq _ _ _; exact ⟨ls, s.ports, h⟩
  · exact ⟨s.listeners, s.ports, rfl⟩
  · exact ⟨s.listeners, _, rfl⟩
  · exact ⟨s.listeners, s.ports, rfl⟩

theorem State.closeSource_eq (sink : SinkId) (s : State) :
    ∃ ls ps, s.closeSource sink = (s.setListeners ls).setPorts ps := by
  unfold State.closeSource
  split <;> split
  · obtain ⟨ls, h⟩ := s.setConn_eq _ _ _; exact ⟨ls, s.ports, h⟩
  · exact ⟨s.listeners, s.ports, rfl⟩
  · exact ⟨s.listeners, _, rfl⟩
  · exact ⟨s.listeners, s.ports, rfl⟩

section

variable (s : State)

@[simp] theorem State.setListener_crc (l : Nat) (li : Listener) : (s.setListener l li).crc = s.crc := rfl
@[simp] theorem State.setListener_crcLoaded (l : Nat) (li : Listener) : (s.setListener l li).crcLoaded = s.crcLoaded := rfl
@[simp] theorem State.setListener_ft (l : Nat) (li : Listener) : (s.setListener l li).ft = s.ft := rfl
@[simp] theorem State.setListener_bank (l : Nat) (li : Listener) : (s.setListener l li).bank = s.bank := rfl
@[simp] theorem State.setListener_queue (l : Nat) (li : Listener) : (s.setListener l li).queue = s.queue := rfl
@[simp] theorem State.setListener_close (l : Nat) (li : Listener) : (s.setListener l li).close = s.close := rfl
@[simp] theorem State.setListener_life (l : Nat) (li : Listener) : (s.setListener l li).life = s.life := rfl
@[simp] theorem State.setListener_dstate (l : Nat) (li : Listener) : (s.setListener l li).dstate = s.dstate := rfl
@[simp] theorem State.setListener_fault (l : Nat) (li : Listener) : (s.setListener l li).fault = s.fault := rfl
@[simp] theorem State.setListener_cfg (l : Nat) (li : Listener) : (s.setListener l li).cfg = s.cfg := rfl
@[simp] theorem State.setListener_result (l : Nat) (li : Listener) : (s.setListener l li).result = s.result := rfl
@[simp] theorem State.setListener_inputs (l : Nat) (li : Listener) : (s.setListener l li).inputs = s.inputs := rfl
@[simp] theorem State.setListener_draws (l : Nat) (li : Listener) : (s.setListener l li).draws = s.draws := rfl
@[simp] theorem State.setListener_ports (l : Nat) (li : Listener) : (s.setListener l li).ports = s.ports := rfl

@[simp] theorem State.setPort_crc (p : Nat) (sp : SerialPort) : (s.setPort p sp).crc = s.crc := rfl
@[simp] theorem State.setPort_crcLoaded (p : Nat) (sp : SerialPort) : (s.setPort p sp).crcLoaded = s.crcLoaded := rfl
@[simp] theorem State.setPort_ft (p : Nat) (sp : SerialPort) : (s.setPort p sp).ft = s.ft := rfl
@[simp] theorem State.setPort_bank (p : Nat) (sp : SerialPort) : (s.setPort p sp).bank = s.bank := rfl
@[simp] theorem State.setPort_queue (p : Nat) (sp : SerialPort) : (s.setPort p sp).queue = s.queue := rfl
@[simp] theorem State.setPort_close (p : Nat) (sp : SerialPort) : (s.setPort p sp).close = s.close := rfl
@[simp] theorem State.setPort_life (p : Nat) (sp : SerialPort) : (s.setPort p sp).life = s.life := rfl
@[simp] theorem State.setPort_dstate (p : Nat) (sp : SerialPort) : (s.setPort p sp).dstate = s.dstate := rfl
@[simp] theorem State.setPort_fault (p : Nat) (sp : SerialPort) : (s.setPort p sp).fault = s.fault := rfl
@[simp] theorem State.setPort_cfg (p : Nat) (sp : SerialPort) : (s.setPort p sp).cfg = s.cfg := rfl
@[simp] theorem State.setPort_result (p : Nat) (sp : SerialPort) : (s.setPort p sp).result = s.result := rfl
@[simp] theorem State.setPort_inputs (p : Nat) (sp : SerialPort) : (s.setPort p sp).inputs = s.inputs := rfl
@[simp] theorem State.setPort_draws (p : Nat) (sp : SerialPort) : (s.setPort p sp).draws = s.draws := rfl
@[simp] theorem State.setPort_listeners (p : Nat) (sp : SerialPort) : (s.setPort p sp).listeners = s.listeners := rfl

@[simp] theorem State.setConn_crc (l n : Nat) (c : Conn) : (s.setConn l n c).crc = s.crc := by obtain ⟨ls, h⟩ := s.setConn_eq l n c; rw [h]; rfl
@[simp] theorem State.setConn_crcLoaded (l n : Nat) (c : Conn) : (s.setConn l n c).crcLoaded = s.crcLoaded := by obtain ⟨ls, h⟩ := s.setConn_eq l n c; rw [h]; rfl
@[simp] theorem State.setConn_ft (l n : Nat) (c : Conn) : (s.setConn l n c).ft = s.ft := by obtain ⟨ls, h⟩ := s.setConn_eq l n c; rw [h]; rfl
@[simp] theorem State.setConn_bank (l n : Nat) (c : Conn) : (s.setConn l n c).bank = s.bank := by obtain ⟨ls, h⟩ := s.setConn_eq l n c; rw [h]; rfl
@[simp] theorem State.setConn_queue (l n : Nat) (c : Conn) : (s.setConn l n c).queue = s.queue := by obtain ⟨ls, h⟩ := s.setConn_eq l n c; rw [h]; rfl
@[simp] theorem State.setConn_close (l n : Nat) (c : Conn) : (s.setConn l n c).close = s.close := by obtain ⟨ls, h⟩ := s.setConn_eq l n c; rw [h]; rfl
@[simp] theorem State.setConn_life (l n : Nat) (c : Conn) : (s.setConn l n c).life = s.life := by obtain ⟨ls, h⟩ := s.setConn_eq l n c; rw [h]; rfl
@[simp] theorem State.setConn_dstate (l n : Nat) (c : Conn) : (s.setConn l n c).dstate = s.dstate := by obtain ⟨ls, h⟩ := s.setConn_eq l n c; rw [h]; rfl
@[simp] theorem State.setConn_fault (l n : Nat) (c : Conn) : (s.setConn l n c).fault = s.fault := by obtain ⟨ls, h⟩ := s.setConn_eq l n c; rw [h]; rfl
@[simp] theorem State.setConn_cfg (l n : Nat) (c : Conn) : (s.setConn l n c).cfg = s.cfg := by obtain ⟨ls, h⟩ := s.setConn_eq l n c; rw [h]; rfl
@[simp] theorem State.setConn_result (l n : Nat) (c : Conn) : (s.setConn l n c).result = s.result := by obtain ⟨ls, h⟩ := s.setConn_eq l n c; rw [h]; rfl
@[simp] theorem State.setConn_inputs (l n : Nat) (c : Conn) : (s.setConn l n c).inputs = s.inputs := by obtain ⟨ls, h⟩ := s.setConn_eq l n c; rw [h]; rfl
@[simp] theorem State.setConn_draws (l n : Nat) (c : Conn) : (s.setConn l n c).draws = s.draws := by obtain ⟨ls, h⟩ := s.setConn_eq l n c; rw [h]; rfl
@[simp] theorem State.setConn_ports (l n : Nat) (c : Conn) : (s.setConn l n c).ports = s.ports := by obtain ⟨ls, h⟩ := s.setConn_eq l n c; rw [h]; rfl

@[simp] theorem State.writeBack_crc (b : List Byte) (k : SinkId) : (s.writeBack b k).crc = s.crc := by obtain ⟨ls, ps, h⟩ := s.writeBack_eq b k; rw [h]; rfl
@[simp] theorem State.writeBack_crcLoaded (b : List Byte) (k : SinkId) : (s.writeBack b k).crcLoaded = s.crcLoaded := by obtain ⟨ls, ps, h⟩ := s.writeBack_eq b k; rw [h]; rfl
@[simp] theorem State.writeBack_ft (b : List Byte) (k : SinkId) : (s.writeBack b k).ft = s.ft := by obtain ⟨ls, ps, h⟩ := s.writeBack_eq b k; rw [h]; rfl
@[simp] theorem State.writeBack_bank (b : List Byte) (k : SinkId) : (s.writeBack b k).bank = s.bank := by obtain ⟨ls, ps, h⟩ := s.writeBack_eq b k; rw [h]; rfl
@[simp] theorem State.writeBack_queue (b : List Byte) (k : SinkId) : (s.writeBack b k).queue = s.queue := by obtain ⟨ls, ps, h⟩ := s.writeBack_eq b k; rw [h]; rfl
@[simp] theorem State.writeBack_close (b : List Byte) (k : SinkId) : (s.writeBack b k).close = s.close := by obtain ⟨ls, ps, h⟩ := s.writeBack_eq b k; rw [h]; rfl
@[simp] theorem State.writeBack_life (b : List Byte) (k : SinkId) : (s.writeBack b k).life = s.life := by obtain ⟨ls, ps, h⟩ := s.writeBack_eq b k; rw [h]; rfl
@[simp] theorem State.writeBack_dstate (b : List Byte) (k : SinkId) : (s.writeBack b k).dstate = s.dstate := by obtain ⟨ls, ps, h⟩ := s.writeBack_eq b k; rw [h]; rfl
@[simp] theorem State.writeBack_fault (b : List Byte) (k : SinkId) : (s.writeBack b k).fault = s.fault := by obtain ⟨ls, ps, h⟩ := s.writeBack_eq b k; rw [h]; rfl
@[simp] theorem State.writeBack_cfg (b : List Byte) (k : SinkId) : (s.writeBack b k).cfg = s.cfg := by obtain ⟨ls, ps, h⟩ := s.writeBack_eq b k; rw [h]; rfl
@[simp] theorem State.writeBack_result (b : List Byte) (k : SinkId) : (s.writeBack b k).result = s.result := by obtain ⟨ls, ps, h⟩ := s.writeBack_eq b k; rw [h]; rfl
@[simp] theorem State.writeBack_inputs (b : List Byte) (k : SinkId) : (s.writeBack b k).inputs = s.inputs := by obtain ⟨ls, ps, h⟩ := s.writeBack_eq b k; rw [h]; rfl
@[simp] theorem State.writeBack_draws (b : List Byte) (k : SinkId) : (s.writeBack b k).draws = s.draws := by obtain ⟨ls, ps, h⟩ := s.writeBack_eq b k; rw [h]; rfl

@[simp] theorem State.startWait_crc (k : SinkId) (r : Request) : (s.startWait k r).crc = s.crc := by obtain ⟨ls, ps, h⟩ := s.startWait_eq k r; rw [h]; rfl
@[simp] theorem State.startWait_crcLoaded (k : SinkId) (r : Request) : (s.startWait k r).crcLoaded = s.crcLoaded := by obtain ⟨ls, ps, h⟩ := s.startWait_eq k r; rw [h]; rfl
@[simp] theorem State.startWait_ft (k : SinkId) (r : Request) : (s.startWait k r).ft = s.ft := by obtain ⟨ls, ps, h⟩ := s.startWait_eq k r; rw [h]; rfl
@[simp] theorem State.startWait_bank (k : SinkId) (r : Request) : (s.startWait k r).bank = s.bank := by obtain ⟨ls, ps, h⟩ := s.startWait_eq k r; rw [h]; rfl
@[simp] theorem State.startWait_queue (k : SinkId) (r : Request) : (s.startWait k r).queue = s.queue := by obtain ⟨ls, ps, h⟩ := s.startWait_eq k r; rw [h]; rfl
@[simp] theorem State.startWait_close (k : SinkId) (r : Request) : (s.startWait k r).close = s.close := by obtain ⟨ls, ps, h⟩ := s.startWait_eq k r; rw [h]; rfl
@[simp] theorem State.startWait_life (k : SinkId) (r : Request) : (s.startWait k r).life = s.life := by obtain ⟨ls, ps, h⟩ := s.startWait_eq k r; rw [h]; rfl
@[simp] theorem State.startWait_dstate (k : SinkId) (r : Request) : (s.startWait k r).dstate = s.dstate := by obtain ⟨ls, ps, h⟩ := s.startWait_eq k r; rw [h]; rfl
@[simp] theorem State.startWait_fault (k : SinkId) (r : Request) : (s.startWait k r).fault = s.fault := by obtain ⟨ls, ps, h⟩ := s.startWait_eq k r; rw [h]; rfl
@[simp] theorem State.startWait_cfg (k : SinkId) (r : Request) : (s.startWait k r).cfg = s.cfg := by obtain ⟨ls, ps, h⟩ := s.startWait_eq k r; rw [h]; rfl
@[simp] theorem State.startWait_result (k : SinkId) (r : Request) : (s.startWait k r).result = s.result := by obtain ⟨ls, ps, h⟩ := s.startWait_eq k r; rw [h]; rfl
@[simp] theorem State.startWait_inputs (k : SinkId) (r : Request) : (s.startWait k r).inputs = s.inputs := by obtain ⟨ls, ps, h⟩ := s.startWait_eq k r; rw [h]; rfl
@[simp] theorem State.startWait_draws (k : SinkId) (r : Request) : (s.startWait k r).draws = s.draws := by obtain ⟨ls, ps, h⟩ := s.startWait_eq k r; rw [h]; rfl

@[simp] theorem State.closeSource_crc (k : SinkId) : (s.closeSource k).crc = s.crc := by obtain ⟨ls, ps, h⟩ := s.closeSource_eq k; rw [h]; rfl
@[simp] theorem State.closeSource_crcLoaded (k : SinkId) : (s.closeSource k).crcLoaded = s.crcLoaded := by obtain ⟨ls, ps, h⟩ := s.closeSource_eq k; rw [h]; rfl
@[simp] theorem State.closeSource_ft (k : SinkId) : (s.closeSource k).ft = s.ft := by obtain ⟨ls, ps, h⟩ := s.closeSource_eq k; rw [h]; rfl
@[simp] theorem State.closeSource_bank (k : SinkId) : (s.closeSource k).bank = s.bank := by obtain ⟨ls, ps, h⟩ := s.closeSource_eq k; rw [h]; rfl
@[simp] theorem State.closeSource_queue (k : SinkId) : (s.closeSource k).queue = s.queue := by obtain ⟨ls, ps, h⟩ := s.closeSource_eq k; rw [h]; rfl
@[simp] theorem State.closeSource_close (k : SinkId) : (s.closeSource k).close = s.close := by obtain ⟨ls, ps, h⟩ := s.closeSource_eq k; rw [h]; rfl
@[simp] theorem State.closeSource_life (k : SinkId) : (s.closeSource k).life = s.life := by obtain ⟨ls, ps, h⟩ := s.closeSource_eq k; rw [h]; rfl
@[simp] theorem State.closeSource_dstate (k : SinkId) : (s.closeSource k).dstate = s.dstate := by obtain ⟨ls, ps, h⟩ := s.closeSource_eq k; rw [h]; rfl
@[simp] theorem State.closeSource_fault (k : SinkId) : (s.closeSource k).fault = s.fault := by obtain ⟨ls, ps, h⟩ := s.closeSource_eq k; rw [h]; rfl
@[simp] theorem State.closeSource_cfg (k : SinkId) : (s.closeSource k).cfg = s.cfg := by obtain ⟨ls, ps, h⟩ := s.closeSource_eq k; rw [h]; rfl
@[simp] theorem State.closeSource_result (k : SinkId) : (s.closeSource k).result = s.result := by obtain ⟨ls, ps, h⟩ := s.closeSource_eq k; rw [h]; rfl
@[simp] theorem State.closeSource_inputs (k : SinkId) : (s.closeSource k).inputs = s.inputs := by obtain ⟨ls, ps, h⟩ := s.closeSource_eq k; rw [h]; rfl
@[simp] theorem State.closeSource_draws (k : SinkId) : (s.closeSource k).draws = s.draws := by obtain ⟨ls, ps, h⟩ := s.closeSource_eq k; rw [h]; rfl

end

/-! Reading a source after an operation on one. -/

theorem State.conn?_isSome_listener {s : State} {l n : Nat} {c : Conn} (h : s.conn? l n = some c) :
    ∃ li, s.listener? l = some li ∧ li.conns[n]? = some c := by
  simpa [State.conn?, Option.bind_eq_some_iff] using h

/-- A connection that is there and is replaced reads as its replacement; every other connection reads as before. -/
theorem State.conn?_setConn {s : State} {l n : Nat} {c : Conn} (h : s.conn? l n = some c) (c' : Conn) (l' n' : Nat) :
    (s.setConn l n c').conn? l' n' = if l' = l ∧ n' = n then some c' else s.conn? l' n' := by
  obtain ⟨li, hli, hc⟩ := State.conn?_isSome_listener h
  have hl : l < s.listeners.length := (List.getElem?_eq_some_iff.1 hli).1
  have hn : n < li.conns.length := (List.getElem?_eq_some_iff.1 hc).1
  have e : s.setConn l n c' = s.setListener l { li with conns := li.conns.set n c' } := by simp only [State.setConn, hli]
  rw [e]
  simp only [State.setListener, State.conn?, State.listener?, State.setListeners_listeners]
  replace hli : s.listeners[l]? = some li := hli
  by_cases hll : l' = l
  · subst hll
    rw [List.getElem?_set_self hl, hli]
    by_cases hnn : n' = n
    · subst hnn; simp [List.getElem?_set_self hn]
    · simp [hnn, List.getElem?_set_ne (Ne.symm hnn)]
  · simp [hll, List.getElem?_set_ne (Ne.symm hll)]

@[simp] theorem State.port?_setConn (s : State) (l n : Nat) (c : Conn) (p : Nat) : (s.setConn l n c).port? p = s.port? p := by
  simp [State.port?]

/-- A port that is there and is replaced reads as its replacement; every other port reads as before. -/
theorem State.port?_setPort {s : State} {p : Nat} {sp : SerialPort} (h : s.port? p = some sp) (sp' : SerialPort) (p' : Nat) :
    (s.setPort p sp').port? p' = if p' = p then some sp' else s.port? p' := by
  have hp : p < s.ports.length := (List.getElem?_eq_some_iff.1 h).1
  simp only [State.setPort, State.port?, State.setPorts_ports]
  by_cases hpp : p' = p
  · subst hpp; simp [List.getElem?_set_self hp]
  · simp [hpp, List.getElem?_set_ne (Ne.symm hpp)]

@[simp] theorem State.conn?_setPort (s : State) (p : Nat) (sp : SerialPort) (l n : Nat) :
    (s.setPort p sp).conn? l n = s.conn? l n := by
  simp [State.conn?, State.listener?]

/-! What a step of one source can do. -/

theorem State.onConn_eq_some {s s' : State} {l n : Nat} {f : Conn → Option Conn} :
    s.onConn l n f = some s' ↔ ∃ c c', s.conn? l n = some c ∧ f c = some c' ∧ s' = s.setConn l n c' := by
  simp only [State.onConn, Option.bind_eq_some_iff, Option.map_eq_some_iff]
  constructor
  · rintro ⟨c, hc, c', hf, rfl⟩; exact ⟨c, c', hc, hf, rfl⟩
  · rintro ⟨c, c', hc, hf, rfl⟩; exact ⟨c, hc, c', hf, rfl⟩

theorem State.onPort_eq_some {s s' : State} {p : Nat} {f : SerialPort → Option SerialPort} :
    s.onPort p f = some s' ↔ ∃ sp sp', s.port? p = some sp ∧ f sp = some sp' ∧ s' = s.setPort p sp' := by
  simp only [State.onPort, Option.bind_eq_some_iff, Option.map_eq_some_iff]
  constructor
  · rintro ⟨c, hc, c', hf, rfl⟩; exact ⟨c, c', hc, hf, rfl⟩
  · rintro ⟨c, c', hc, hf, rfl⟩; exact ⟨c, hc, c', hf, rfl⟩

theorem State.onAcc_eq_some {s s' : State} {l : Nat} {f : AccState → Option AccState} :
    s.onAcc l f = some s' ↔ ∃ li a, s.listener? l = some li ∧ f li.acc = some a ∧ s' = s.setListener l { li with acc := a } := by
  simp only [State.onAcc, Option.bind_eq_some_iff, Option.map_eq_some_iff]
  constructor
  · rintro ⟨c, hc, c', hf, rfl⟩; exact ⟨c, c', hc, hf, rfl⟩
  · rintro ⟨c, c', hc, hf, rfl⟩; exact ⟨c, hc, c', hf, rfl⟩

/-- A change of an accept unit's control state leaves every connection as it was. -/
theorem State.conn?_setAcc {s : State} {l : Nat} {li : Listener} (h : s.listener? l = some li) (a : AccState) (l' n' : Nat) :
    (s.setListener l { li with acc := a }).conn? l' n' = s.conn? l' n' := by
  have hl : l < s.listeners.length := (List.getElem?_eq_some_iff.1 h).1
  simp only [State.setListener, State.conn?, State.listener?, State.setListeners_listeners]
  by_cases hll : l' = l
  · subst hll
    replace h : s.listeners[l']? = some li := h
    rw [List.getElem?_set_self hl, h]; rfl
  · rw [List.getElem?_set_ne (Ne.symm hll)]

/-- An accepted connection is the next of its listener, fresh; every other connection is as it was (R214). -/
theorem State.conn?_accept {s : State} {l : Nat} {li : Listener} (h : s.listener? l = some li) (c : Conn) (l' n' : Nat) :
    (s.setListener l { li with conns := li.conns ++ [c] }).conn? l' n' =
      if l' = l ∧ n' = li.conns.length then some c else s.conn? l' n' := by
  have hl : l < s.listeners.length := (List.getElem?_eq_some_iff.1 h).1
  simp only [State.setListener, State.conn?, State.listener?, State.setListeners_listeners]
  by_cases hll : l' = l
  · subst hll
    replace h : s.listeners[l']? = some li := h
    rw [List.getElem?_set_self hl, h]
    simp only [Option.bind_some, true_and]
    by_cases hn : n' = li.conns.length
    · subst hn; simp
    · simp only [hn, if_false]
      rcases Nat.lt_or_gt_of_ne hn with hlt | hgt
      · rw [List.getElem?_append_left hlt]
      · rw [List.getElem?_eq_none (by simp; omega), List.getElem?_eq_none (by omega)]
  · simp [hll, List.getElem?_set_ne (Ne.symm hll)]

/-! What the field updates leave of the sources. -/

theorem State.conn?_congr {s s' : State} (h : s'.listeners = s.listeners) (l n : Nat) : s'.conn? l n = s.conn? l n := by
  simp [State.conn?, State.listener?, h]

theorem State.port?_congr {s s' : State} (h : s'.ports = s.ports) (p : Nat) : s'.port? p = s.port? p := by
  simp [State.port?, h]

end Sys2Proof.Machine
end

