-- ==== Sys2Proof/Laws/Step.lean ====
section
/-! SUPPORT. What one step can do, said once: how each shared operation on a source reads afterwards, and the inversion of a step
into the cases of `CoreStep`, by which every invariant of sources, queue, dispatcher and lifecycle is shown. -/

namespace Sys2Proof.Machine

/-! The operations on a source, read back at every source. -/

theorem State.conn?_updateConn (s : State) (l' n' : Nat) (f : Conn → Conn) (l n : Nat) :
    (match s.conn? l' n' with
      | some c => s.setConn l' n' (f c)
      | none   => s).conn? l n =
    (s.conn? l n).map fun c => if SinkId.tcp l' n' = .tcp l n then f c else c := by
  by_cases h : l = l' ∧ n = n'
  · obtain ⟨rfl, rfl⟩ := h
    cases hc : s.conn? l n with
    | none => simp [hc]
    | some c => simp [State.conn?_setConn hc]
  · have hne : ¬ (l' = l ∧ n' = n) := fun h' => h ⟨h'.1.symm, h'.2.symm⟩
    simp only [SinkId.tcp.injEq, hne, if_false, Option.map_id']
    split
    · rename_i c hc; rw [State.conn?_setConn hc, if_neg h]
    · rfl

theorem State.port?_updatePort (s : State) (p' : Nat) (f : SerialPort → SerialPort) (p : Nat) :
    (match s.port? p' with
      | some sp => s.setPort p' (f sp)
      | none    => s).port? p =
    (s.port? p).map fun sp => if SinkId.rtu p' = .rtu p then f sp else sp := by
  by_cases h : p = p'
  · subst h
    cases hc : s.port? p with
    | none => simp [hc]
    | some c => simp [State.port?_setPort hc]
  · have hne : ¬ p' = p := fun h' => h h'.symm
    simp only [SinkId.rtu.injEq, hne, if_false, Option.map_id']
    split
    · rename_i c hc; rw [State.port?_setPort hc, if_neg h]
    · rfl

theorem State.port?_updateConn (s : State) (l n : Nat) (f : Conn → Conn) (p : Nat) :
    (match s.conn? l n with
      | some c => s.setConn l n (f c)
      | none   => s).port? p = s.port? p := by
  split <;> simp

theorem State.conn?_updatePort (s : State) (p : Nat) (f : SerialPort → SerialPort) (l n : Nat) :
    (match s.port? p with
      | some sp => s.setPort p (f sp)
      | none    => s).conn? l n = s.conn? l n := by
  split <;> simp

theorem State.conn?_writeBack (b : List Byte) (k : SinkId) (s : State) (l n : Nat) :
    (s.writeBack b k).conn? l n = (s.conn? l n).map fun c => if k = .tcp l n then (c.deliver b).release else c := by
  cases k with
  | tcp l' n' => exact s.conn?_updateConn l' n' (fun c => (c.deliver b).release) l n
  | rtu p => simp; exact s.conn?_updatePort p (fun c => (c.deliver b).release) l n

theorem State.port?_writeBack (b : List Byte) (k : SinkId) (s : State) (p : Nat) :
    (s.writeBack b k).port? p = (s.port? p).map fun sp => if k = .rtu p then (sp.deliver b).release else sp := by
  cases k with
  | tcp l' n' => simp; exact s.port?_updateConn l' n' (fun c => (c.deliver b).release) p
  | rtu p' => exact s.port?_updatePort p' (fun c => (c.deliver b).release) p

theorem State.conn?_startWait (k : SinkId) (req : Request) (s : State) (l n : Nat) :
    (s.startWait k req).conn? l n = (s.conn? l n).map fun c => if k = .tcp l n then { c with rstate := .wait req } else c := by
  cases k with
  | tcp l' n' => exact s.conn?_updateConn l' n' (fun c => { c with rstate := .wait req }) l n
  | rtu p => simp; exact s.conn?_updatePort p (fun c => { c with rstate := .wait req }) l n

theorem State.port?_startWait (k : SinkId) (req : Request) (s : State) (p : Nat) :
    (s.startWait k req).port? p = (s.port? p).map fun sp => if k = .rtu p then { sp with rstate := .wait req } else sp := by
  cases k with
  | tcp l' n' => simp; exact s.port?_updateConn l' n' (fun c => { c with rstate := .wait req }) p
  | rtu p' => exact s.port?_updatePort p' (fun c => { c with rstate := .wait req }) p

theorem State.conn?_closeSource (k : SinkId) (s : State) (l n : Nat) :
    (s.closeSource k).conn? l n = (s.conn? l n).map fun c => if k = .tcp l n then c.teardown else c := by
  cases k with
  | tcp l' n' => exact s.conn?_updateConn l' n' Conn.teardown l n
  | rtu p => simp; exact s.conn?_updatePort p SerialPort.shut l n

theorem State.port?_closeSource (k : SinkId) (s : State) (p : Nat) :
    (s.closeSource k).port? p = (s.port? p).map fun sp => if k = .rtu p then sp.shut else sp := by
  cases k with
  | tcp l' n' => simp; exact s.port?_updateConn l' n' Conn.teardown p
  | rtu p' => exact s.port?_updatePort p' SerialPort.shut p

/-- The accept units' control states, which no operation on a source changes. -/
def State.accs (s : State) : List AccState := s.listeners.map (·.acc)

@[simp] theorem State.accs_setConn (l n : Nat) (c : Conn) (s : State) : (s.setConn l n c).accs = s.accs := by
  unfold State.setConn
  split
  · rename_i li h
    replace h : s.listeners[l]? = some li := h
    have hl := (List.getElem?_eq_some_iff.1 h).1
    have he := (List.getElem?_eq_some_iff.1 h).2
    simp only [State.accs, State.setListener, State.setListeners_listeners, List.map_set]
    apply List.ext_getElem
    · simp
    · intro i h1 h2
      rw [List.getElem_set]
      split
      · rename_i hi; subst hi; simp [he]
      · rfl
  · rfl

@[simp] theorem State.accs_setPort (p : Nat) (sp : SerialPort) (s : State) : (s.setPort p sp).accs = s.accs := rfl

@[simp] theorem State.accs_writeBack (b : List Byte) (k : SinkId) (s : State) : (s.writeBack b k).accs = s.accs := by
  cases k <;> simp only [State.writeBack] <;> split <;> simp

@[simp] theorem State.accs_startWait (k : SinkId) (req : Request) (s : State) : (s.startWait k req).accs = s.accs := by
  cases k <;> simp only [State.startWait] <;> split <;> simp

@[simp] theorem State.accs_closeSource (k : SinkId) (s : State) : (s.closeSource k).accs = s.accs := by
  cases k <;> simp only [State.closeSource] <;> split <;> simp

/-! The part of the state that holds the sources, the queue, the dispatcher and the lifecycle. -/

/-- Two states agree on listeners, ports, queue, dispatcher, lifecycle, close signal and parameters. -/
structure CoreEq (s t : State) : Prop where
  listeners : t.listeners = s.listeners
  ports     : t.ports = s.ports
  queue     : t.queue = s.queue
  dstate    : t.dstate = s.dstate
  life      : t.life = s.life
  close     : t.close = s.close
  cfg       : t.cfg = s.cfg

theorem CoreEq.refl (s : State) : CoreEq s s := ⟨rfl, rfl, rfl, rfl, rfl, rfl, rfl⟩

/-- The steps of one connection: its reader's own (R211 to R213, R221) and the peer's (R262). -/
inductive ConnStep (p : Params) (close : Bool) (sink : SinkId) (c c' : Conn) : Prop
  | header (k : Nat) (h : c.readHeader k = some c')
  | body (k : Nat) (h : c.readBody k = some c')
  | parse (h : c.parse p sink = some c')
  | closeCheck (h : c.closeCheck close = some c')
  | endOfInput (h : c.endOfInput = some c')
  | receive (bytes : List Byte) (h : c.receive bytes = some c')
  | hangUp (h : c.hangUp = some c')

/-- The steps of one port: its reader's own (R222 to R224), and the close of a reader that never started (R228). -/
inductive PortStep (life : Life) (close : Bool) (sink : SinkId) (sp sp' : SerialPort) : Prop
  | start (h : sp.startReader life = some sp')
  | unstarted (h : sp.closeUnstarted close = some sp')
  | check (h : sp.checkClose close = some sp')
  | read (chunk : List Byte) (h : sp.readChunk sink chunk = some sp')
  | error (h : sp.portError = some sp')

/-- The steps of one accept unit that create no connection (R215, R216). -/
inductive AccStep (life : Life) (close : Bool) : AccState → AccState → Prop
  | start (h : life = .running) : AccStep life close .off .run
  | pause : AccStep life close .run .pause
  | resume : AccStep life close .pause .run
  | stop : AccStep life close .run (if close then .closed else .error)

/-- Everything a step can do to the part of the state in `CoreEq`. -/
inductive CoreStep (s : State) : State → Prop
  | quiet : CoreStep s s
  | route (b : List Byte) (k : SinkId) (h : s.dstate = .write b k) : CoreStep s (routeResponse b k s)
  | push (k : SinkId) (req : Request) (h : s.parsedRequest k = some req) (space : s.queue.length < s.cfg.channelDepth) :
      CoreStep s ((s.setQueue (s.queue ++ [req])).startWait k req)
  | drop (k : SinkId) (h : (s.parsedRequest k).isSome = true ∨ (s.awaited k).isSome = true) (hc : s.close = true) :
      CoreStep s (s.closeSource k)
  | pop (req : Request) (rest : List Request) (b : List Byte) (hd : s.dstate = .idle) (hq : s.queue = req :: rest) :
      CoreStep s ((s.setQueue rest).setDispatcher (.write b req.sink))
  | dispStart (hd : s.dstate = .off) (hl : s.life = .running) : CoreStep s (s.setDispatcher .idle)
  | dispClose (hd : s.dstate = .idle) (hc : s.close = true) : CoreStep s (s.setDispatcher .exit)
  | conn (l n : Nat) (c c' : Conn) (h : s.conn? l n = some c) (hc : ConnStep s.cfg s.close (.tcp l n) c c') :
      CoreStep s (s.setConn l n c')
  | port (p : Nat) (sp sp' : SerialPort) (h : s.port? p = some sp) (hp : PortStep s.life s.close (.rtu p) sp sp') :
      CoreStep s (s.setPort p sp')
  | acc (l : Nat) (li : Listener) (a : AccState) (h : s.listener? l = some li) (ha : AccStep s.life s.close li.acc a) :
      CoreStep s (s.setListener l { li with acc := a })
  | accept (l : Nat) (li : Listener) (h : s.listener? l = some li) (ha : li.acc = .run) :
      CoreStep s (s.setListener l { li with conns := li.conns ++ [Conn.fresh] })
  | listenTcp (hl : s.life = .config) : CoreStep s (s.setListeners (s.listeners ++ [⟨.off, []⟩]))
  | listenRtu (hl : s.life = .config) : CoreStep s (s.setPorts (s.ports ++ [SerialPort.fresh]))
  | start (hl : s.life = .config) : CoreStep s (s.setLife .running)
  | shutdown (hl : s.life = .running) : CoreStep s (s.setClose.setLife .shutdown)
  | complete (hl : s.life = .shutdown) (hr : s.readersClosed = true) :
      CoreStep s (((s.setListeners (s.listeners.map fun li => { li with acc := li.acc.close })).setPorts
        (s.ports.map fun sp => { sp with isOpen := false })).setLife .stopped)

/-! Inversions. -/

theorem orWait_eq_next {s t : State} {o : Option State} (h : orWait s o = .next t) : o = some t ∨ t = s := by
  cases o with
  | none => simp only [orWait, Host.Outcome.next.injEq] at h; exact .inr h.symm
  | some u => simp only [orWait, Host.Outcome.next.injEq] at h; exact .inl (by rw [h])

/-- A step that answers a next state is one input consumed in a state without a fault. -/
theorem step_eq_next {s t : State} (h : step s = .next t) :
    s.fault = none ∧ consume (nextInput s).1 (nextInput s).2 = .next t := by
  unfold step at h
  split at h
  · cases h
  · exact ⟨by assumption, h⟩

/-- Taking the next input changes only where inputs come from. -/
theorem nextInput_state (s : State) : ∃ is d, (nextInput s).2 = { s with inputs := is, draws := d } := by
  unfold nextInput
  split
  · exact ⟨_, s.draws, rfl⟩
  · exact ⟨s.inputs, _, rfl⟩

/-- Serializing writes at most the CRC register. -/
theorem serialize_state {f : Frame} {s t : State} {b : List Byte} (h : serialize f s = some (b, t)) :
    t = { s with crc := t.crc, crcLoaded := t.crcLoaded } := by
  cases f with
  | rtu f => simp only [serialize, Option.some.injEq, Prod.mk.injEq] at h; rw [← h.2]; rfl
  | tcp f =>
    simp only [serialize, Option.map_eq_some_iff, Prod.mk.injEq] at h
    obtain ⟨_, _, _, h⟩ := h
    rw [← h]

/-- HANDLE writes at most the bank and the CRC register. -/
theorem handleRequest_state {req : Request} {s t : State} {b : List Byte} (h : handleRequest req s = .ok (b, t)) :
    t = { s with bank := (handlerResult s req.frame).bank, crc := t.crc, crcLoaded := t.crcLoaded } := by
  unfold handleRequest at h
  simp only at h
  split at h
  · rename_i hs
    simp only [Except.ok.injEq, Prod.mk.injEq] at h
    obtain ⟨rfl, rfl⟩ := h
    rw [serialize_state hs]; rfl
  · cases h

/-- HANDLE raises only the one fault. -/
theorem handleRequest_error {req : Request} {s : State} {f : BlockFault} (h : handleRequest req s = .error f) :
    f = .tcpResponseTooLong := by
  unfold handleRequest at h
  simp only at h
  split at h
  · cases h
  · simp only [Except.error.injEq] at h; exact h.symm

/-- The dispatcher takes the head of the queue, in `D_IDLE` (R192 (a)). -/
theorem State.nextRequest_eq_some {s : State} {req : Request} {rest : List Request} (h : s.nextRequest = some (req, rest)) :
    s.dstate = .idle ∧ s.queue = req :: rest := by
  unfold State.nextRequest at h
  split at h
  · injection h with h; injection h with h1 h2; subst h1; subst h2; exact ⟨by assumption, by assumption⟩
  · cases h

/-- The request arm for a request, inverted: HANDLE completes, the request is popped and its response is to be written. -/
theorem takeRequest_eq_ok {req : Request} {rest : List Request} {s t : State} {b : List Byte}
    (h : takeRequest req rest s = .ok (b, t)) :
    ∃ s', handleRequest req s = .ok (b, s') ∧ t = (s'.setQueue rest).setDispatcher (.write b req.sink) := by
  unfold takeRequest at h
  split at h
  · rename_i s' hr; injection h with h; injection h with h1 h2; subst h1; exact ⟨s', hr, h2.symm⟩
  · cases h

theorem takeRequest_eq_error {req : Request} {rest : List Request} {s : State} {f : BlockFault}
    (h : takeRequest req rest s = .error f) : handleRequest req s = .error .tcpResponseTooLong ∧ f = .tcpResponseTooLong := by
  unfold takeRequest at h
  split at h
  · cases h
  · rename_i g hr; have hg := handleRequest_error hr; subst hg; injection h with h; exact ⟨hr, h.symm⟩

/-- A command that stands for the dispatcher's request arm, inverted: it waits, or it takes the head of the queue, or it raises the
fault. -/
inductive Dispatched (wanted : Request → Bool) (s t : State) : Prop
  | waits (ht : t = s.report .waiting)
  | takes (req : Request) (rest : List Request) (b : List Byte) (s' : State) (r : Result) (hd : s.dstate = .idle)
      (hq : s.queue = req :: rest) (hw : wanted req = true) (hr : handleRequest req s = .ok (b, s'))
      (ht : t = ((s'.setQueue rest).setDispatcher (.write b req.sink)).report r)
  | faults (req : Request) (rest : List Request) (hd : s.dstate = .idle) (hq : s.queue = req :: rest) (hw : wanted req = true)
      (hr : handleRequest req s = .error .tcpResponseTooLong) (ht : t = s.raise .tcpResponseTooLong)

theorem asDispatcher_eq_next {wanted : Request → Bool} {shown : List Byte → Result} {s t : State}
    (h : asDispatcher wanted shown s = .next t) : Dispatched wanted s t := by
  unfold asDispatcher at h
  split at h
  · rename_i req rest hn
    obtain ⟨hd, hq⟩ := State.nextRequest_eq_some hn
    split at h
    · rename_i hw
      split at h
      · rename_i b u hu
        obtain ⟨s', hr, rfl⟩ := takeRequest_eq_ok hu
        injection h with h; exact .takes req rest b s' _ hd hq hw hr h.symm
      · rename_i f hf
        obtain ⟨hr, rfl⟩ := takeRequest_eq_error hf
        injection h with h; exact .faults req rest hd hq hw hr h.symm
    · injection h with h; exact .waits h.symm
  · injection h with h; exact .waits h.symm

/-- The dispatcher's own request arm, inverted likewise. -/
theorem dispRequest_eq_some {s t : State} (h : dispRequest s = some t) : Dispatched (fun _ => true) s t := by
  unfold dispRequest at h
  split at h
  · rename_i req rest hn
    obtain ⟨hd, hq⟩ := State.nextRequest_eq_some hn
    split at h
    · rename_i b u hu
      obtain ⟨s', hr, rfl⟩ := takeRequest_eq_ok hu
      injection h with h; exact .takes req rest b s' s'.result hd hq rfl hr h.symm
    · rename_i f hf
      obtain ⟨hr, rfl⟩ := takeRequest_eq_error hf
      injection h with h; exact .faults req rest hd hq rfl hr h.symm
  · cases h

/-- A request instruction before `start()`, and after it. -/
theorem serveFrame_eq_next {f : Frame} {s t : State} (h : serveFrame f s = .next t) :
    (s.life = .config ∧ ∃ r, t = (s.setBank (handlerResult s f).bank).report r) ∨
    (s.life ≠ .config ∧ Dispatched (fun req => decide (req.frame = f)) s t) := by
  simp only [serveFrame] at h
  split at h
  · rename_i hl; injection h with h; exact .inl ⟨hl, _, h.symm⟩
  · rename_i hl; exact .inr ⟨hl, asDispatcher_eq_next h⟩

/-- HANDLE as a command, before `start()` and after it. -/
theorem execHandle_eq_next {req : Request} {s t : State} (h : execHandle req s = .next t) :
    (s.life = .config ∧ ((∃ b s' r, handleRequest req s = .ok (b, s') ∧ t = s'.report r) ∨
      (handleRequest req s = .error .tcpResponseTooLong ∧ t = s.raise .tcpResponseTooLong))) ∨
    (s.life ≠ .config ∧ Dispatched (fun r => decide (r = req)) s t) := by
  unfold execHandle at h
  split at h
  · rename_i hl
    refine .inl ⟨hl, ?_⟩
    split at h
    · rename_i hr; injection h with h; exact .inl ⟨_, _, _, hr, h.symm⟩
    · rename_i hr
      have hg := handleRequest_error hr
      subst hg
      injection h with h; exact .inr ⟨hr, h.symm⟩
  · rename_i hl; exact .inr ⟨hl, asDispatcher_eq_next h⟩

/-- A command on the bank: it acts before `start()`, and else waits. -/
theorem beforeStart_eq_next {served s t : State} (h : beforeStart served s = .next t) :
    (s.life = .config ∧ t = served) ∨ (s.life ≠ .config ∧ t = s.report .waiting) := by
  unfold beforeStart at h
  injection h with h
  split at h
  · exact .inl ⟨by assumption, h.symm⟩
  · exact .inr ⟨by assumption, h.symm⟩

theorem pushRequest_eq_some {k : SinkId} {s t : State} (h : pushRequest k s = some t) :
    ∃ req, s.parsedRequest k = some req ∧ s.queue.length < s.cfg.channelDepth ∧
      t = (s.setQueue (s.queue ++ [req])).startWait k req := by
  unfold pushRequest at h
  split at h
  · rename_i req hreq
    split at h
    · simp only [Option.some.injEq] at h; exact ⟨req, hreq, by assumption, h.symm⟩
    · cases h
  · cases h

theorem abandonRequest_eq_some {k : SinkId} {s t : State} (h : abandonRequest k s = some t) :
    (s.parsedRequest k).isSome = true ∧ s.close = true ∧ t = s.closeSource k := by
  unfold abandonRequest at h
  split at h
  · rename_i hc; simp only [Option.some.injEq] at h; exact ⟨hc.1, hc.2, h.symm⟩
  · cases h

theorem leaveWait_eq_some {k : SinkId} {s t : State} (h : leaveWait k s = some t) :
    (s.awaited k).isSome = true ∧ s.close = true ∧ t = s.closeSource k := by
  unfold leaveWait at h
  split at h
  · rename_i hc; simp only [Option.some.injEq] at h; exact ⟨hc.1, hc.2, h.symm⟩
  · cases h

/-- An enqueue step is one of its two arms. -/
theorem enqueueStep_eq_some {first : Bool} {k : SinkId} {s t : State} (h : enqueueStep first k s = some t) :
    pushRequest k s = some t ∨ abandonRequest k s = some t := by
  unfold enqueueStep at h
  split at h
  · rename_i h1 h2
    simp only [Option.some.injEq] at h
    cases first
    · right; rw [h2, ← h]; rfl
    · left; rw [h1, ← h]; rfl
  · rename_i h1 _; left; rw [h1, h]
  · rename_i _ h2; right; rw [h2, h]
  · cases h

/-! One step, inverted. -/

theorem CoreEq.quiet {s t : State} (h : CoreEq s t) : ∃ u, CoreStep s u ∧ CoreEq u t := ⟨s, .quiet, h⟩

theorem CoreEq.trans {s t u : State} (h : CoreEq s t) (h' : CoreEq t u) : CoreEq s u :=
  ⟨h'.listeners.trans h.listeners, h'.ports.trans h.ports, h'.queue.trans h.queue, h'.dstate.trans h.dstate,
    h'.life.trans h.life, h'.close.trans h.close, h'.cfg.trans h.cfg⟩

theorem Dispatched.core {wanted : Request → Bool} {s t : State} (h : Dispatched wanted s t) : ∃ u, CoreStep s u ∧ CoreEq u t := by
  cases h with
  | waits ht => rw [ht]; exact CoreEq.quiet ⟨rfl, rfl, rfl, rfl, rfl, rfl, rfl⟩
  | takes req rest b s' r hd hq _ hr ht =>
    rw [ht, handleRequest_state hr]; exact ⟨_, .pop req rest b hd hq, ⟨rfl, rfl, rfl, rfl, rfl, rfl, rfl⟩⟩
  | faults _ _ _ _ _ _ ht => rw [ht]; exact CoreEq.quiet ⟨rfl, rfl, rfl, rfl, rfl, rfl, rfl⟩

theorem serveFrame_core (f : Frame) {s t : State} (h : serveFrame f s = .next t) : ∃ u, CoreStep s u ∧ CoreEq u t := by
  rcases serveFrame_eq_next h with ⟨_, r, rfl⟩ | ⟨_, h⟩
  · exact CoreEq.quiet ⟨rfl, rfl, rfl, rfl, rfl, rfl, rfl⟩
  · exact h.core

theorem beforeStart_core {b : Bank} {r : Result} {s t : State} (h : beforeStart ((s.setBank b).report r) s = .next t) :
    ∃ u, CoreStep s u ∧ CoreEq u t := by
  rcases beforeStart_eq_next h with ⟨_, rfl⟩ | ⟨_, rfl⟩ <;> exact CoreEq.quiet ⟨rfl, rfl, rfl, rfl, rfl, rfl, rfl⟩

theorem CoreEq.afterRtuParse (b : List Byte) (s : State) : CoreEq s (s.afterRtuParse b) := by
  unfold State.afterRtuParse; split <;> exact ⟨rfl, rfl, rfl, rfl, rfl, rfl, rfl⟩

/-- What an instruction can do to the part of the state in `CoreEq`. -/
theorem exec_core {i : Instr} {s t : State} (h : exec i s = .next t) : ∃ u, CoreStep s u ∧ CoreEq u t := by
  cases i with
  | readCoils | readDiscreteInputs | readHoldingRegisters | readInputRegisters | writeSingleCoil | writeSingleRegister
  | writeMultipleCoils | writeMultipleRegisters | unknownFunction => exact serveFrame_core _ h
  | bankReadCoils | bankReadDiscreteInputs | bankReadHoldingRegisters | bankReadInputRegisters | bankWriteSingleCoil
  | bankWriteSingleRegister | bankWriteMultipleCoils | bankWriteMultipleRegisters => exact beforeStart_core h
  | exceptionResponse | crcInit | crc16 | bitsPack | bitsUnpack | rtuSerialize | tcpParse | excInject | respBuild | fnLookup =>
    injection h with h; rw [← h]; exact CoreEq.quiet ⟨rfl, rfl, rfl, rfl, rfl, rfl, rfl⟩
  | rtuParse b =>
    injection h with h; rw [← h]
    have he := CoreEq.afterRtuParse b s
    exact CoreEq.quiet ⟨he.listeners, he.ports, he.queue, he.dstate, he.life, he.close, he.cfg⟩
  | crcUpdate b =>
    simp only [exec, execCrcUpdate] at h
    split at h <;> (injection h with h; rw [← h]; exact CoreEq.quiet ⟨rfl, rfl, rfl, rfl, rfl, rfl, rfl⟩)
  | crcCheck b =>
    simp only [exec, execCrcCheck] at h
    split at h <;> (injection h with h; rw [← h]; exact CoreEq.quiet ⟨rfl, rfl, rfl, rfl, rfl, rfl, rfl⟩)
  | tcpSerialize f =>
    simp only [exec, execTcpSerialize] at h
    split at h <;> (injection h with h; rw [← h]; exact CoreEq.quiet ⟨rfl, rfl, rfl, rfl, rfl, rfl, rfl⟩)
  | handle req =>
    rcases execHandle_eq_next h with ⟨_, ⟨b, s', r, hr, rfl⟩ | ⟨_, rfl⟩⟩ | ⟨_, h⟩
    · rw [handleRequest_state hr]; exact CoreEq.quiet ⟨rfl, rfl, rfl, rfl, rfl, rfl, rfl⟩
    · exact CoreEq.quiet ⟨rfl, rfl, rfl, rfl, rfl, rfl, rfl⟩
    · exact h.core
  | route b k =>
    simp only [exec, execRoute] at h
    split at h
    · rename_i hd; injection h with h; rw [← h]; exact ⟨_, .route b k hd, ⟨rfl, rfl, rfl, rfl, rfl, rfl, rfl⟩⟩
    · injection h with h; rw [← h]; exact CoreEq.quiet ⟨rfl, rfl, rfl, rfl, rfl, rfl, rfl⟩
  | fnSet fc hd =>
    simp only [exec, execFnSet] at h
    split at h
    · injection h with h; rw [← h]; exact CoreEq.quiet ⟨rfl, rfl, rfl, rfl, rfl, rfl, rfl⟩
    · cases h
  | close =>
    simp only [exec, execClose] at h
    split at h
    · rename_i hl; injection h with h; rw [← h]; exact ⟨_, .shutdown hl, ⟨rfl, rfl, rfl, rfl, rfl, rfl, rfl⟩⟩
    · cases h
  | enqueue req =>
    simp only [exec, execEnqueue] at h
    split at h
    · split at h
      · rename_i u hu
        injection h with h; rw [← h]
        rcases enqueueStep_eq_some hu with hp | hp
        · obtain ⟨r, hr, hs, rfl⟩ := pushRequest_eq_some hp; exact ⟨_, .push _ r hr hs, ⟨rfl, rfl, rfl, rfl, rfl, rfl, rfl⟩⟩
        · obtain ⟨hr, hc, rfl⟩ := abandonRequest_eq_some hp; exact ⟨_, .drop _ (.inl hr) hc, ⟨rfl, rfl, rfl, rfl, rfl, rfl, rfl⟩⟩
      · injection h with h; rw [← h]; exact CoreEq.quiet ⟨rfl, rfl, rfl, rfl, rfl, rfl, rfl⟩
    · injection h with h; rw [← h]; exact CoreEq.quiet ⟨rfl, rfl, rfl, rfl, rfl, rfl, rfl⟩
  | reservedOpsel => cases h

theorem onConn_core {l n : Nat} {f : Conn → Option Conn} {s t : State} (h : s.onConn l n f = some t)
    (hf : ∀ c c', f c = some c' → ConnStep s.cfg s.close (.tcp l n) c c') : ∃ u, CoreStep s u ∧ CoreEq u t := by
  obtain ⟨c, c', hc, hfc, rfl⟩ := State.onConn_eq_some.1 h
  exact ⟨_, .conn l n c c' hc (hf c c' hfc), ⟨rfl, rfl, rfl, rfl, rfl, rfl, rfl⟩⟩

theorem onPort_core {p : Nat} {f : SerialPort → Option SerialPort} {s t : State} (h : s.onPort p f = some t)
    (hf : ∀ c c', f c = some c' → PortStep s.life s.close (.rtu p) c c') : ∃ u, CoreStep s u ∧ CoreEq u t := by
  obtain ⟨c, c', hc, hfc, rfl⟩ := State.onPort_eq_some.1 h
  exact ⟨_, .port p c c' hc (hf c c' hfc), ⟨rfl, rfl, rfl, rfl, rfl, rfl, rfl⟩⟩

theorem onAcc_core {l : Nat} {f : AccState → Option AccState} {s t : State} (h : s.onAcc l f = some t)
    (hf : ∀ a a', f a = some a' → AccStep s.life s.close a a') : ∃ u, CoreStep s u ∧ CoreEq u t := by
  obtain ⟨li, a, hli, hfa, rfl⟩ := State.onAcc_eq_some.1 h
  exact ⟨_, .acc l li a hli (hf _ _ hfa), ⟨rfl, rfl, rfl, rfl, rfl, rfl, rfl⟩⟩

theorem dispStart_core {s t : State} (h : dispStart s = some t) : ∃ u, CoreStep s u ∧ CoreEq u t := by
  unfold dispStart at h
  split at h
  · rename_i hc; injection h with h; rw [← h]; exact ⟨_, .dispStart hc.1 hc.2, ⟨rfl, rfl, rfl, rfl, rfl, rfl, rfl⟩⟩
  · cases h

theorem dispClose_core {s t : State} (h : dispClose s = some t) : ∃ u, CoreStep s u ∧ CoreEq u t := by
  unfold dispClose at h
  split at h
  · rename_i hc; injection h with h; rw [← h]; exact ⟨_, .dispClose hc.1 hc.2, ⟨rfl, rfl, rfl, rfl, rfl, rfl, rfl⟩⟩
  · cases h

theorem dispWrite_core {s t : State} (h : dispWrite s = some t) : ∃ u, CoreStep s u ∧ CoreEq u t := by
  unfold dispWrite at h
  split at h
  · rename_i hd; injection h with h; rw [← h]; exact ⟨_, .route _ _ hd, ⟨rfl, rfl, rfl, rfl, rfl, rfl, rfl⟩⟩
  · cases h

theorem serialRead_core {p : Nat} {chunk : List Byte} {s t : State} (h : serialRead p chunk s = some t) :
    ∃ u, CoreStep s u ∧ CoreEq u t := by
  simp only [serialRead, Option.map_eq_some_iff] at h
  obtain ⟨u, hu, rfl⟩ := h
  obtain ⟨v, hv, he⟩ := onPort_core hu fun c c' hc => .read chunk hc
  exact ⟨v, hv, he.trans (CoreEq.afterRtuParse chunk u)⟩

theorem acceptConnection_core {l : Nat} {s t : State} (h : acceptConnection l s = some t) : ∃ u, CoreStep s u ∧ CoreEq u t := by
  simp only [acceptConnection, Option.bind_eq_some_iff] at h
  obtain ⟨li, hli, h⟩ := h
  split at h
  · rename_i hc; injection h with h; rw [← h]; exact ⟨_, .accept l li hli hc.1, ⟨rfl, rfl, rfl, rfl, rfl, rfl, rfl⟩⟩
  · cases h

theorem shutdownComplete_core {s t : State} (h : shutdownComplete s = some t) : ∃ u, CoreStep s u ∧ CoreEq u t := by
  unfold shutdownComplete at h
  split at h
  · rename_i hc; injection h with h; rw [← h]; exact ⟨_, .complete hc.1 hc.2, ⟨rfl, rfl, rfl, rfl, rfl, rfl, rfl⟩⟩
  · cases h

/-- What a move can do to the part of the state in `CoreEq`. -/
theorem runMove_core {m : Move} {s t : State} (h : runMove m s = .next t) : ∃ u, CoreStep s u ∧ CoreEq u t := by
  cases m with
  | listenTcp ok =>
    simp only [runMove, Sys2Proof.Machine.listenTcp] at h
    split at h
    · rename_i hl; injection h with h; rw [← h]
      cases ok
      · exact CoreEq.quiet ⟨rfl, rfl, rfl, rfl, rfl, rfl, rfl⟩
      · exact ⟨_, .listenTcp hl, ⟨rfl, rfl, rfl, rfl, rfl, rfl, rfl⟩⟩
    · cases h
  | listenRtu ok =>
    simp only [runMove, Sys2Proof.Machine.listenRtu] at h
    split at h
    · rename_i hl; injection h with h; rw [← h]
      cases ok
      · exact CoreEq.quiet ⟨rfl, rfl, rfl, rfl, rfl, rfl, rfl⟩
      · exact ⟨_, .listenRtu hl, ⟨rfl, rfl, rfl, rfl, rfl, rfl, rfl⟩⟩
    · cases h
  | start =>
    simp only [runMove, startCall] at h
    split at h
    · rename_i hl; injection h with h; rw [← h]; exact ⟨_, .start hl, ⟨rfl, rfl, rfl, rfl, rfl, rfl, rfl⟩⟩
    · cases h
  | send l n b =>
    rcases orWait_eq_next h with h | rfl
    · exact onConn_core h fun c c' hc => .receive b hc
    · exact CoreEq.quiet ⟨rfl, rfl, rfl, rfl, rfl, rfl, rfl⟩
  | hangUp l n =>
    rcases orWait_eq_next h with h | rfl
    · exact onConn_core h fun c c' hc => .hangUp hc
    · exact CoreEq.quiet ⟨rfl, rfl, rfl, rfl, rfl, rfl, rfl⟩
  | accept l =>
    rcases orWait_eq_next h with h | rfl
    · exact acceptConnection_core h
    · exact CoreEq.quiet ⟨rfl, rfl, rfl, rfl, rfl, rfl, rfl⟩
  | acceptError l permanent =>
    rcases orWait_eq_next h with h | rfl
    · refine onAcc_core h fun a a' ha => ?_
      split at ha
      · rename_i hr; subst hr
        injection ha with ha; subst ha
        cases permanent
        · exact .pause
        · exact .stop
      · cases ha
    · exact CoreEq.quiet ⟨rfl, rfl, rfl, rfl, rfl, rfl, rfl⟩
  | accStart l =>
    rcases orWait_eq_next h with h | rfl
    · refine onAcc_core h fun a a' ha => ?_
      split at ha
      · rename_i hr; obtain ⟨rfl, hl⟩ := hr; injection ha with ha; subst ha; exact .start hl
      · cases ha
    · exact CoreEq.quiet ⟨rfl, rfl, rfl, rfl, rfl, rfl, rfl⟩
  | accResume l =>
    rcases orWait_eq_next h with h | rfl
    · refine onAcc_core h fun a a' ha => ?_
      split at ha
      · rename_i hr; subst hr; injection ha with ha; subst ha; exact .resume
      · cases ha
    · exact CoreEq.quiet ⟨rfl, rfl, rfl, rfl, rfl, rfl, rfl⟩
  | dispStart =>
    rcases orWait_eq_next h with h | rfl
    · exact dispStart_core h
    · exact CoreEq.quiet ⟨rfl, rfl, rfl, rfl, rfl, rfl, rfl⟩
  | dispRequest =>
    rcases orWait_eq_next h with h | rfl
    · exact (dispRequest_eq_some h).core
    · exact CoreEq.quiet ⟨rfl, rfl, rfl, rfl, rfl, rfl, rfl⟩
  | dispClose =>
    rcases orWait_eq_next h with h | rfl
    · exact dispClose_core h
    · exact CoreEq.quiet ⟨rfl, rfl, rfl, rfl, rfl, rfl, rfl⟩
  | dispWrite =>
    rcases orWait_eq_next h with h | rfl
    · exact dispWrite_core h
    · exact CoreEq.quiet ⟨rfl, rfl, rfl, rfl, rfl, rfl, rfl⟩
  | tcpHeader l n k =>
    rcases orWait_eq_next h with h | rfl
    · exact onConn_core h fun c c' hc => .header k hc
    · exact CoreEq.quiet ⟨rfl, rfl, rfl, rfl, rfl, rfl, rfl⟩
  | tcpBody l n k =>
    rcases orWait_eq_next h with h | rfl
    · exact onConn_core h fun c c' hc => .body k hc
    · exact CoreEq.quiet ⟨rfl, rfl, rfl, rfl, rfl, rfl, rfl⟩
  | tcpParse l n =>
    rcases orWait_eq_next h with h | rfl
    · exact onConn_core h fun c c' hc => .parse hc
    · exact CoreEq.quiet ⟨rfl, rfl, rfl, rfl, rfl, rfl, rfl⟩
  | tcpCloseCheck l n =>
    rcases orWait_eq_next h with h | rfl
    · exact onConn_core h fun c c' hc => .closeCheck hc
    · exact CoreEq.quiet ⟨rfl, rfl, rfl, rfl, rfl, rfl, rfl⟩
  | tcpEnd l n =>
    rcases orWait_eq_next h with h | rfl
    · exact onConn_core h fun c c' hc => .endOfInput hc
    · exact CoreEq.quiet ⟨rfl, rfl, rfl, rfl, rfl, rfl, rfl⟩
  | push k =>
    rcases orWait_eq_next h with h | rfl
    · obtain ⟨r, hr, hs, rfl⟩ := pushRequest_eq_some h; exact ⟨_, .push _ r hr hs, ⟨rfl, rfl, rfl, rfl, rfl, rfl, rfl⟩⟩
    · exact CoreEq.quiet ⟨rfl, rfl, rfl, rfl, rfl, rfl, rfl⟩
  | abandon k =>
    rcases orWait_eq_next h with h | rfl
    · obtain ⟨hr, hc, rfl⟩ := abandonRequest_eq_some h; exact ⟨_, .drop _ (.inl hr) hc, ⟨rfl, rfl, rfl, rfl, rfl, rfl, rfl⟩⟩
    · exact CoreEq.quiet ⟨rfl, rfl, rfl, rfl, rfl, rfl, rfl⟩
  | leaveWait k =>
    rcases orWait_eq_next h with h | rfl
    · obtain ⟨hr, hc, rfl⟩ := leaveWait_eq_some h; exact ⟨_, .drop _ (.inr hr) hc, ⟨rfl, rfl, rfl, rfl, rfl, rfl, rfl⟩⟩
    · exact CoreEq.quiet ⟨rfl, rfl, rfl, rfl, rfl, rfl, rfl⟩
  | rtuStart p =>
    rcases orWait_eq_next h with h | rfl
    · exact onPort_core h fun c c' hc => .start hc
    · exact CoreEq.quiet ⟨rfl, rfl, rfl, rfl, rfl, rfl, rfl⟩
  | rtuUnstarted p =>
    rcases orWait_eq_next h with h | rfl
    · exact onPort_core h fun c c' hc => .unstarted hc
    · exact CoreEq.quiet ⟨rfl, rfl, rfl, rfl, rfl, rfl, rfl⟩
  | rtuCheck p =>
    rcases orWait_eq_next h with h | rfl
    · exact onPort_core h fun c c' hc => .check hc
    · exact CoreEq.quiet ⟨rfl, rfl, rfl, rfl, rfl, rfl, rfl⟩
  | serialRead p chunk =>
    rcases orWait_eq_next h with h | rfl
    · exact serialRead_core h
    · exact CoreEq.quiet ⟨rfl, rfl, rfl, rfl, rfl, rfl, rfl⟩
  | serialError p =>
    rcases orWait_eq_next h with h | rfl
    · exact onPort_core h fun c c' hc => .error hc
    · exact CoreEq.quiet ⟨rfl, rfl, rfl, rfl, rfl, rfl, rfl⟩
  | shutdownComplete =>
    rcases orWait_eq_next h with h | rfl
    · exact shutdownComplete_core h
    · exact CoreEq.quiet ⟨rfl, rfl, rfl, rfl, rfl, rfl, rfl⟩

/-- One step, up to the inputs and the other fields that `CoreEq` leaves out, is one `CoreStep`. -/
theorem step_core {s t : State} (h : step s = .next t) : ∃ s' u, CoreEq s s' ∧ CoreStep s' u ∧ CoreEq u t := by
  obtain ⟨_, hc⟩ := step_eq_next h
  obtain ⟨is, d, hs⟩ := nextInput_state s
  refine ⟨(nextInput s).2, ?_⟩
  have he : CoreEq s (nextInput s).2 := by rw [hs]; exact ⟨rfl, rfl, rfl, rfl, rfl, rfl, rfl⟩
  unfold consume at hc
  split at hc
  · split at hc
    · obtain ⟨u, hu, hut⟩ := exec_core hc; exact ⟨u, he, hu, hut⟩
    · cases hc
  · obtain ⟨u, hu, hut⟩ := runMove_core hc; exact ⟨u, he, hu, hut⟩

end Sys2Proof.Machine
end

