-- ==== Sys2Proof/Laws/Ops.lean ====
section
/-! SUPPORT. Laws of the shared operations on the bank, the function table, the fault register and the parameters: what a handler, an
instruction, a move and a step can do to them, said once. -/

namespace Sys2Proof

/-! Frames and responses. -/

@[simp] theorem Header.frame_function (hdr : Header) (fc : Byte) (data : List Byte) : (hdr.frame fc data).function = fc := by
  cases hdr <;> rfl

@[simp] theorem Header.frame_data (hdr : Header) (fc : Byte) (data : List Byte) : (hdr.frame fc data).data = data := by
  cases hdr <;> rfl

@[simp] theorem Header.frame_header (hdr : Header) (fc : Byte) (data : List Byte) : (hdr.frame fc data).header = hdr := by
  cases hdr <;> rfl

/-- RESP_BUILD by its two cases (R179). -/
theorem buildResponse_frame (hdr : Header) (fc : Byte) (data payload : List Byte) (e : Byte) :
    buildResponse (hdr.frame fc data) payload e = if e = 0#8 then hdr.frame fc payload else hdr.frame (fc ||| 0x80#8) [e] := by
  by_cases he : e = 0#8 <;> simp [buildResponse, injectException, excSuccess, he]

/-- The bank after two lists of capability calls. -/
theorem Bank.calls_append (b : Bank) (cs cs' : List BankCall) : b.calls (cs ++ cs') = (b.calls cs).calls cs' := by
  induction cs generalizing b with
  | nil => rfl
  | cons c cs ih => exact ih _

namespace Machine

/-! The bank changes only through capability calls (R39, R121). -/

theorem bitsAnswer_bank (p : Params) (count : Word) (r : BitsRead Bank) : (bitsAnswer p count r).bank = r.bank := by
  unfold bitsAnswer; split
  · rfl
  · split <;> rfl

/-- Exactly `count` words are answered. -/
@[simp] theorem answeredWords_length (count : Nat) (absent : Nat → Word) (words : List Word) :
    (answeredWords count absent words).length = count := by simp [answeredWords]

/-- No word is absent where the bank call returned `count` of them. -/
theorem answeredWords_eq_self {count : Nat} (absent : Nat → Word) {words : List Word} (h : words.length = count) :
    answeredWords count absent words = words := by
  subst h
  exact List.ext_getElem (by simp) fun i h1 h2 => by simp [answeredWords, h2]

theorem wordsAnswer_bank (p : Params) (count : Word) (absent : Nat → Word) (r : WordsRead Bank) :
    (wordsAnswer p count absent r).bank = r.bank := by
  unfold wordsAnswer; split
  · rfl
  · split <;> rfl

theorem echoAnswer_bank (data : List Byte) (r : Written Bank) : (echoAnswer data r).bank = r.bank := by
  unfold echoAnswer; split <;> rfl

/-- The bank after a handler is the bank after some capability calls. -/
theorem runHandler_bank (p : Params) (h : HandlerId) (b : Bank) (f : Frame) : ∃ cs, (runHandler p h b f).bank = b.calls cs := by
  cases h with
  | stdReadCoils =>
    simp only [runHandler, stdReadCoils]; split
    · exact ⟨[], rfl⟩
    · rw [bitsAnswer_bank]; exact ⟨[.readCoils _ _], rfl⟩
  | stdReadDiscreteInputs =>
    simp only [runHandler, stdReadDiscreteInputs]; split
    · exact ⟨[], rfl⟩
    · rw [bitsAnswer_bank]; exact ⟨[.readDiscreteInputs _ _], rfl⟩
  | stdReadHoldingRegisters =>
    simp only [runHandler, stdReadHoldingRegisters]; split
    · exact ⟨[], rfl⟩
    · rw [wordsAnswer_bank]; exact ⟨[.readHoldingRegisters _ _], rfl⟩
  | stdReadInputRegisters =>
    simp only [runHandler, stdReadInputRegisters]; split
    · exact ⟨[], rfl⟩
    · rw [wordsAnswer_bank]; exact ⟨[.readInputRegisters _ _], rfl⟩
  | stdWriteSingleCoil =>
    simp only [runHandler, stdWriteSingleCoil]; split
    · exact ⟨[], rfl⟩
    · rw [echoAnswer_bank]; exact ⟨[.writeSingleCoil _ _], rfl⟩
  | stdWriteSingleRegister =>
    simp only [runHandler, stdWriteSingleRegister]; split
    · exact ⟨[], rfl⟩
    · rw [echoAnswer_bank]; exact ⟨[.writeSingleRegister _ _], rfl⟩
  | stdWriteMultipleCoils =>
    simp only [runHandler, stdWriteMultipleCoils]; split
    · exact ⟨[], rfl⟩
    · split
      · rw [echoAnswer_bank]; exact ⟨[.writeMultipleCoils _ _], rfl⟩
      · exact ⟨[], rfl⟩
  | stdWriteMultipleRegisters =>
    simp only [runHandler, stdWriteMultipleRegisters]; split
    · exact ⟨[], rfl⟩
    · rw [echoAnswer_bank]; exact ⟨[.writeMultipleRegisters _ _], rfl⟩
  | custom k => exact ⟨_, rfl⟩

theorem handlerResult_bank (s : State) (f : Frame) : ∃ cs, (handlerResult s f).bank = s.bank.calls cs := by
  unfold handlerResult; split
  · exact ⟨[], rfl⟩
  · exact runHandler_bank _ _ _ _

/-! What a step leaves of the bank, the function table, the fault register and the parameters. -/

/-- The part of the state that only requests, capability commands, FN_SET, CLOSE and faults write, and the parameters; and the queue
grows at its tail or stays. -/
structure StoreEq (s t : State) : Prop where
  bank  : t.bank = s.bank
  ft    : t.ft = s.ft
  fault : t.fault = s.fault
  cfg   : t.cfg = s.cfg
  close : t.close = s.close
  grows : s.queue <+: t.queue

/-- The inputs by which the dispatcher takes a request: its own move, or a message that is the HANDLE of that request or the PDU of a
request instruction with its frame. -/
def ServedBy (i : Input) (req : Request) : Prop :=
  i = .move .dispRequest ∨
  (∃ port bytes, i = .message port bytes ∧ decode port bytes = .ok (.handle req)) ∨
  ∃ hdr fc data, i = .message (.pdu hdr) (fc :: data) ∧ req.frame = hdr.frame fc data

/-- Everything a step can do to that part, its input being `i`: nothing; before `start()` some capability calls of a request or command;
the dispatcher's request arm; FN_SET; the shutdown call; and the three ways to a fault. -/
inductive StoreStep (i : Input) (s t : State) : Prop
  | quiet (h : StoreEq s t)
  | before (cs : List BankCall) (hl : s.life = .config) (h : t.bank = s.bank.calls cs) (hf : t.ft = s.ft) (hx : t.fault = s.fault)
      (hc : t.cfg = s.cfg) (hcl : t.close = s.close) (hq : t.queue = s.queue)
  | takes (req : Request) (rest : List Request) (b : List Byte) (s' : State) (r : Result) (hi : ServedBy i req)
      (hd : s.dstate = .idle) (hq : s.queue = req :: rest) (hr : handleRequest req s = .ok (b, s'))
      (ht : t = ((s'.setQueue rest).setDispatcher (.write b req.sink)).report r)
  | fnSet (port : Port) (bytes : List Byte) (fc : Byte) (h : Option HandlerId) (hi : i = .message port bytes)
      (hd : decode port bytes = .ok (.fnSet fc h)) (hl : s.life = .config) (ht : t = (s.setSlot fc h).report .none)
  | shutdown (port : Port) (bytes : List Byte) (hi : i = .message port bytes) (hd : decode port bytes = .ok .close)
      (hl : s.life = .running) (ht : t = (s.setClose.setLife .shutdown).report .none)
  | stale (port : Port) (bytes : List Byte) (b : Byte) (hi : i = .message port bytes)
      (hd : decode port bytes = .ok (.crcUpdate b)) (hl : s.crcLoaded = false) (ht : t = s.raise .crcUninitialised)
  | long (port : Port) (bytes : List Byte) (f : TcpFrame) (hi : i = .message port bytes)
      (hd : decode port bytes = .ok (.tcpSerialize f)) (hf : 65533 < f.data.length) (ht : t = s.raise .tcpResponseTooLong)
  | handle (port : Port) (bytes : List Byte) (req : Request) (hi : i = .message port bytes)
      (hd : decode port bytes = .ok (.handle req)) (hl : s.life = .config)
      (hr : handleRequest req s = .error .tcpResponseTooLong) (ht : t = s.raise .tcpResponseTooLong)
  | pop (req : Request) (rest : List Request) (hi : ServedBy i req) (hd : s.dstate = .idle) (hq : s.queue = req :: rest)
      (hr : handleRequest req s = .error .tcpResponseTooLong) (ht : t = s.raise .tcpResponseTooLong)

theorem StoreEq.afterRtuParse (b : List Byte) (s : State) : StoreEq s (s.afterRtuParse b) := by
  unfold State.afterRtuParse; split <;> exact ⟨rfl, rfl, rfl, rfl, rfl, List.prefix_rfl⟩

theorem Dispatched.store {wanted : Request → Bool} {i : Input} {s t : State} (h : Dispatched wanted s t)
    (hi : ∀ req, wanted req = true → ServedBy i req) : StoreStep i s t := by
  cases h with
  | waits ht => rw [ht]; exact .quiet ⟨rfl, rfl, rfl, rfl, rfl, List.prefix_rfl⟩
  | takes req rest b s' r hd hq hw hr ht => exact .takes req rest b s' r (hi req hw) hd hq hr ht
  | faults req rest hd hq hw hr ht => exact .pop req rest (hi req hw) hd hq hr ht

theorem serveFrame_store {port : Port} {bytes : List Byte} {instr : Instr} {f : Frame} {s t : State}
    (hd : decode port bytes = .ok instr) (hf : instr.requestFrame = some f) (h : serveFrame f s = .next t) :
    StoreStep (.message port bytes) s t := by
  rcases serveFrame_eq_next h with ⟨hl, r, rfl⟩ | ⟨_, h⟩
  · obtain ⟨cs, hcs⟩ := handlerResult_bank s f; exact .before cs hl hcs rfl rfl rfl rfl rfl
  · obtain ⟨hdr, fc, data, rfl, rfl, he⟩ := request_of_decode hd hf
    exact h.store fun req hw => .inr (.inr ⟨hdr, fc, data, rfl, (of_decide_eq_true hw).trans he⟩)

theorem beforeStart_store {i : Input} {b : Bank} {r : Result} {s t : State} (c : BankCall) (hb : b = s.bank.call c)
    (h : beforeStart ((s.setBank b).report r) s = .next t) : StoreStep i s t := by
  rcases beforeStart_eq_next h with ⟨hl, rfl⟩ | ⟨_, rfl⟩
  · exact .before [c] hl hb rfl rfl rfl rfl rfl
  · exact .quiet ⟨rfl, rfl, rfl, rfl, rfl, List.prefix_rfl⟩

theorem pushRequest_store {k : SinkId} {s t : State} (h : pushRequest k s = some t) : StoreEq s t := by
  obtain ⟨r, _, _, rfl⟩ := pushRequest_eq_some h; exact ⟨by simp, by simp, by simp, by simp, by simp, by simp⟩

theorem closeSource_store (k : SinkId) (s : State) : StoreEq s (s.closeSource k) :=
  ⟨by simp, by simp, by simp, by simp, by simp, by simp⟩

theorem exec_store {port : Port} {bytes : List Byte} {instr : Instr} {s t : State} (hd : decode port bytes = .ok instr)
    (h : exec instr s = .next t) : StoreStep (.message port bytes) s t := by
  cases instr with
  | readCoils | readDiscreteInputs | readHoldingRegisters | readInputRegisters | writeSingleCoil | writeSingleRegister
  | writeMultipleCoils | writeMultipleRegisters | unknownFunction => exact serveFrame_store hd rfl h
  | exceptionResponse | crcInit | crc16 | bitsPack | bitsUnpack | rtuSerialize | tcpParse | excInject | respBuild | fnLookup =>
    injection h with h; rw [← h]; exact .quiet ⟨rfl, rfl, rfl, rfl, rfl, List.prefix_rfl⟩
  | bankReadCoils a b => exact beforeStart_store (.readCoils a b) rfl h
  | bankReadDiscreteInputs a b => exact beforeStart_store (.readDiscreteInputs a b) rfl h
  | bankReadHoldingRegisters a b => exact beforeStart_store (.readHoldingRegisters a b) rfl h
  | bankReadInputRegisters a b => exact beforeStart_store (.readInputRegisters a b) rfl h
  | bankWriteSingleCoil a b => exact beforeStart_store (.writeSingleCoil a b) rfl h
  | bankWriteSingleRegister a b => exact beforeStart_store (.writeSingleRegister a b) rfl h
  | bankWriteMultipleCoils a b => exact beforeStart_store (.writeMultipleCoils a b) rfl h
  | bankWriteMultipleRegisters a b => exact beforeStart_store (.writeMultipleRegisters a b) rfl h
  | rtuParse b =>
    injection h with h; rw [← h]
    have he := StoreEq.afterRtuParse b s
    exact .quiet ⟨he.bank, he.ft, he.fault, he.cfg, he.close, he.grows⟩
  | crcUpdate b =>
    simp only [exec, execCrcUpdate] at h
    split at h
    · injection h with h; rw [← h]; exact .quiet ⟨rfl, rfl, rfl, rfl, rfl, List.prefix_rfl⟩
    · rename_i hl
      injection h with h; exact .stale port bytes b rfl hd (by simpa using hl) h.symm
  | crcCheck b =>
    simp only [exec, execCrcCheck] at h
    split at h <;> (injection h with h; rw [← h]; exact .quiet ⟨rfl, rfl, rfl, rfl, rfl, List.prefix_rfl⟩)
  | tcpSerialize f =>
    simp only [exec, execTcpSerialize] at h
    split at h
    · injection h with h; rw [← h]; exact .quiet ⟨rfl, rfl, rfl, rfl, rfl, List.prefix_rfl⟩
    · rename_i hs
      injection h with h
      refine .long port bytes f rfl hd ?_ h.symm
      simp only [serializeTcp] at hs
      split at hs
      · omega
      · cases hs
  | handle req =>
    rcases execHandle_eq_next h with ⟨hl, ⟨b, s', r, hr, rfl⟩ | ⟨hr, rfl⟩⟩ | ⟨_, h⟩
    · obtain ⟨cs, hcs⟩ := handlerResult_bank s req.frame
      rw [handleRequest_state hr]; exact .before cs hl hcs rfl rfl rfl rfl rfl
    · exact .handle port bytes req rfl hd hl hr rfl
    · refine h.store fun req' hw => .inr (.inl ⟨port, bytes, rfl, ?_⟩)
      rw [of_decide_eq_true hw, hd]
  | route b k =>
    simp only [exec, execRoute] at h
    split at h <;> (injection h with h; rw [← h]; exact .quiet ⟨by simp [routeResponse], by simp [routeResponse],
      by simp [routeResponse], by simp [routeResponse], by simp [routeResponse], by simp [routeResponse]⟩)
  | fnSet fc x =>
    simp only [exec, execFnSet] at h
    split at h
    · rename_i hl; injection h with h; exact .fnSet port bytes fc x rfl hd hl h.symm
    · cases h
  | close =>
    simp only [exec, execClose] at h
    split at h
    · rename_i hl; injection h with h; exact .shutdown port bytes rfl hd hl h.symm
    · cases h
  | enqueue req =>
    simp only [exec, execEnqueue] at h
    split at h
    · split at h
      · rename_i u hu
        injection h with h; rw [← h]
        rcases enqueueStep_eq_some hu with hp | hp
        · have he := pushRequest_store hp; exact .quiet ⟨he.bank, he.ft, he.fault, he.cfg, he.close, he.grows⟩
        · obtain ⟨_, _, rfl⟩ := abandonRequest_eq_some hp
          have he := closeSource_store req.sink s; exact .quiet ⟨he.bank, he.ft, he.fault, he.cfg, he.close, he.grows⟩
      · injection h with h; rw [← h]; exact .quiet ⟨rfl, rfl, rfl, rfl, rfl, List.prefix_rfl⟩
    · injection h with h; rw [← h]; exact .quiet ⟨rfl, rfl, rfl, rfl, rfl, List.prefix_rfl⟩
  | reservedOpsel => cases h

theorem onConn_store {l n : Nat} {f : Conn → Option Conn} {s t : State} (h : s.onConn l n f = some t) : StoreEq s t := by
  obtain ⟨c, c', _, _, rfl⟩ := State.onConn_eq_some.1 h; exact ⟨by simp, by simp, by simp, by simp, by simp, by simp⟩

theorem onPort_store {p : Nat} {f : SerialPort → Option SerialPort} {s t : State} (h : s.onPort p f = some t) : StoreEq s t := by
  obtain ⟨c, c', _, _, rfl⟩ := State.onPort_eq_some.1 h; exact ⟨rfl, rfl, rfl, rfl, rfl, List.prefix_rfl⟩

theorem onAcc_store {l : Nat} {f : AccState → Option AccState} {s t : State} (h : s.onAcc l f = some t) : StoreEq s t := by
  obtain ⟨li, a, _, _, rfl⟩ := State.onAcc_eq_some.1 h; exact ⟨rfl, rfl, rfl, rfl, rfl, List.prefix_rfl⟩

/-- A move other than the dispatcher's request arm leaves bank, function table, fault register, parameters and close signal. -/
theorem runMove_store {m : Move} {s t : State} (h : runMove m s = .next t) (hm : m ≠ .dispRequest) : StoreEq s t := by
  have refl : StoreEq s s := ⟨rfl, rfl, rfl, rfl, rfl, List.prefix_rfl⟩
  cases m with
  | dispRequest => exact absurd rfl hm
  | listenTcp ok =>
    simp only [runMove, Sys2Proof.Machine.listenTcp] at h
    split at h
    · injection h with h; rw [← h]; cases ok <;> exact ⟨rfl, rfl, rfl, rfl, rfl, List.prefix_rfl⟩
    · cases h
  | listenRtu ok =>
    simp only [runMove, Sys2Proof.Machine.listenRtu] at h
    split at h
    · injection h with h; rw [← h]; cases ok <;> exact ⟨rfl, rfl, rfl, rfl, rfl, List.prefix_rfl⟩
    · cases h
  | start =>
    simp only [runMove, startCall] at h
    split at h
    · injection h with h; rw [← h]; exact ⟨rfl, rfl, rfl, rfl, rfl, List.prefix_rfl⟩
    · cases h
  | send | hangUp | tcpHeader | tcpBody | tcpParse | tcpCloseCheck | tcpEnd =>
    rcases orWait_eq_next h with h | rfl
    · exact onConn_store h
    · exact refl
  | rtuStart | rtuUnstarted | rtuCheck | serialError =>
    rcases orWait_eq_next h with h | rfl
    · exact onPort_store h
    · exact refl
  | acceptError | accStart | accResume =>
    rcases orWait_eq_next h with h | rfl
    · exact onAcc_store h
    · exact refl
  | accept l =>
    rcases orWait_eq_next h with h | rfl
    · simp only [acceptConnection, Option.bind_eq_some_iff] at h
      obtain ⟨li, _, h⟩ := h
      split at h
      · injection h with h; rw [← h]; exact ⟨rfl, rfl, rfl, rfl, rfl, List.prefix_rfl⟩
      · cases h
    · exact refl
  | dispStart =>
    rcases orWait_eq_next h with h | rfl
    · unfold Sys2Proof.Machine.dispStart at h
      split at h
      · injection h with h; rw [← h]; exact ⟨rfl, rfl, rfl, rfl, rfl, List.prefix_rfl⟩
      · cases h
    · exact refl
  | dispClose =>
    rcases orWait_eq_next h with h | rfl
    · unfold Sys2Proof.Machine.dispClose at h
      split at h
      · injection h with h; rw [← h]; exact ⟨rfl, rfl, rfl, rfl, rfl, List.prefix_rfl⟩
      · cases h
    · exact refl
  | dispWrite =>
    rcases orWait_eq_next h with h | rfl
    · unfold Sys2Proof.Machine.dispWrite at h
      split at h
      · injection h with h; rw [← h]
        exact ⟨by simp [routeResponse], by simp [routeResponse], by simp [routeResponse], by simp [routeResponse],
          by simp [routeResponse], by simp [routeResponse]⟩
      · cases h
    · exact refl
  | push k =>
    rcases orWait_eq_next h with h | rfl
    · exact pushRequest_store h
    · exact refl
  | abandon k =>
    rcases orWait_eq_next h with h | rfl
    · obtain ⟨_, _, rfl⟩ := abandonRequest_eq_some h; exact closeSource_store _ _
    · exact refl
  | leaveWait k =>
    rcases orWait_eq_next h with h | rfl
    · obtain ⟨_, _, rfl⟩ := leaveWait_eq_some h; exact closeSource_store _ _
    · exact refl
  | serialRead p chunk =>
    rcases orWait_eq_next h with h | rfl
    · simp only [Sys2Proof.Machine.serialRead, Option.map_eq_some_iff] at h
      obtain ⟨u, hu, rfl⟩ := h
      have h1 := onPort_store hu
      have h2 := StoreEq.afterRtuParse chunk u
      exact ⟨h2.bank.trans h1.bank, h2.ft.trans h1.ft, h2.fault.trans h1.fault, h2.cfg.trans h1.cfg, h2.close.trans h1.close,
        h1.grows.trans h2.grows⟩
    · exact refl
  | shutdownComplete =>
    rcases orWait_eq_next h with h | rfl
    · unfold Sys2Proof.Machine.shutdownComplete at h
      split at h
      · injection h with h; rw [← h]; exact ⟨rfl, rfl, rfl, rfl, rfl, List.prefix_rfl⟩
      · cases h
    · exact refl

/-- What one input can do to bank, function table, fault register, parameters and close signal. -/
theorem consume_store {i : Input} {s t : State} (h : consume i s = .next t) : StoreStep i s t := by
  cases i with
  | message port bytes =>
    simp only [consume] at h
    split at h
    · rename_i hd; exact exec_store hd h
    · cases h
  | move m =>
    by_cases hm : m = .dispRequest
    · subst hm
      rcases orWait_eq_next h with h | rfl
      · exact (dispRequest_eq_some h).store fun _ _ => .inl rfl
      · exact .quiet ⟨rfl, rfl, rfl, rfl, rfl, List.prefix_rfl⟩
    · exact .quiet (runMove_store h hm)

/-- Over every step the bank after it is the bank before it after some capability calls (R39). -/
theorem step_bank {s t : State} (h : step s = .next t) : ∃ cs, t.bank = s.bank.calls cs := by
  obtain ⟨_, hc⟩ := step_eq_next h
  obtain ⟨is, d, hs⟩ := nextInput_state s
  have hb : (nextInput s).2.bank = s.bank := by rw [hs]
  cases consume_store hc with
  | quiet h => exact ⟨[], h.bank.trans hb⟩
  | before cs _ h => exact ⟨cs, by rw [h, hb]⟩
  | takes req rest b s' r _ _ _ hr ht =>
    obtain ⟨cs, hcs⟩ := handlerResult_bank (nextInput s).2 req.frame
    exact ⟨cs, by rw [ht, handleRequest_state hr, ← hb]; exact hcs⟩
  | fnSet _ _ _ _ _ _ _ ht => exact ⟨[], by rw [ht]; exact hb⟩
  | shutdown _ _ _ _ _ ht => exact ⟨[], by rw [ht]; exact hb⟩
  | stale _ _ _ _ _ _ ht => exact ⟨[], by rw [ht]; exact hb⟩
  | long _ _ _ _ _ _ ht => exact ⟨[], by rw [ht]; exact hb⟩
  | handle _ _ _ _ _ _ _ ht => exact ⟨[], by rw [ht]; exact hb⟩
  | pop _ _ _ _ _ _ ht => exact ⟨[], by rw [ht]; exact hb⟩

end Machine

end Sys2Proof
end

