-- ==== Sys2Proof/Laws/PerInstr.lean ====
section
/-! SUPPORT. The per-instruction family `CodeByte`: the encoding of an instruction begins with the code byte that its row of
spec/opcode_table.json gives, on the port of the row's code space (R90, R93, R94, R102, R103). -/

namespace Sys2Proof.Laws.CodeByte

/-- The code byte and the port of an instruction as its row of the table has them. -/
def expected : Instr → Port × Byte
  | .readCoils hdr _ => (.pdu hdr, 0x01#8)
  | .readDiscreteInputs hdr _ => (.pdu hdr, 0x02#8)
  | .readHoldingRegisters hdr _ => (.pdu hdr, 0x03#8)
  | .readInputRegisters hdr _ => (.pdu hdr, 0x04#8)
  | .writeSingleCoil hdr _ => (.pdu hdr, 0x05#8)
  | .writeSingleRegister hdr _ => (.pdu hdr, 0x06#8)
  | .writeMultipleCoils hdr _ => (.pdu hdr, 0x0F#8)
  | .writeMultipleRegisters hdr _ => (.pdu hdr, 0x10#8)
  | .unknownFunction function hdr _ => (.pdu hdr, function)
  | .exceptionResponse hdr function _ => (.response hdr, function)
  | .crcInit => (.command, 0x01#8)
  | .crcUpdate _ => (.command, 0x02#8)
  | .crc16 _ => (.command, 0x03#8)
  | .crcCheck _ => (.command, 0x04#8)
  | .bitsPack _ => (.command, 0x10#8)
  | .bitsUnpack _ _ => (.command, 0x11#8)
  | .rtuParse _ => (.command, 0x20#8)
  | .rtuSerialize _ => (.command, 0x21#8)
  | .tcpParse _ => (.command, 0x22#8)
  | .tcpSerialize _ => (.command, 0x23#8)
  | .excInject _ _ => (.command, 0x24#8)
  | .respBuild _ _ _ => (.command, 0x25#8)
  | .fnLookup _ => (.command, 0x30#8)
  | .handle _ => (.command, 0x31#8)
  | .route _ _ => (.command, 0x32#8)
  | .fnSet _ _ => (.command, 0x33#8)
  | .close => (.command, 0x34#8)
  | .enqueue _ => (.command, 0x35#8)
  | .bankReadCoils _ _ => (.command, 0x40#8)
  | .bankReadDiscreteInputs _ _ => (.command, 0x41#8)
  | .bankReadHoldingRegisters _ _ => (.command, 0x42#8)
  | .bankReadInputRegisters _ _ => (.command, 0x43#8)
  | .bankWriteSingleCoil _ _ => (.command, 0x44#8)
  | .bankWriteSingleRegister _ _ => (.command, 0x45#8)
  | .bankWriteMultipleCoils _ _ => (.command, 0x46#8)
  | .bankWriteMultipleRegisters _ _ => (.command, 0x47#8)
  | .reservedOpsel opsel => (.command, opsel)

/-- The encoded message stands on the expected port and begins with the expected code byte. -/
def Statement (i : Instr) : Prop := ∃ operands, encode i = ((expected i).1, (expected i).2 :: operands)

theorem readCoils (hdr : Header) (data : List Byte) : Statement (.readCoils hdr data) := ⟨_, rfl⟩
theorem readDiscreteInputs (hdr : Header) (data : List Byte) : Statement (.readDiscreteInputs hdr data) := ⟨_, rfl⟩
theorem readHoldingRegisters (hdr : Header) (data : List Byte) : Statement (.readHoldingRegisters hdr data) := ⟨_, rfl⟩
theorem readInputRegisters (hdr : Header) (data : List Byte) : Statement (.readInputRegisters hdr data) := ⟨_, rfl⟩
theorem writeSingleCoil (hdr : Header) (data : List Byte) : Statement (.writeSingleCoil hdr data) := ⟨_, rfl⟩
theorem writeSingleRegister (hdr : Header) (data : List Byte) : Statement (.writeSingleRegister hdr data) := ⟨_, rfl⟩
theorem writeMultipleCoils (hdr : Header) (data : List Byte) : Statement (.writeMultipleCoils hdr data) := ⟨_, rfl⟩
theorem writeMultipleRegisters (hdr : Header) (data : List Byte) : Statement (.writeMultipleRegisters hdr data) := ⟨_, rfl⟩
theorem unknownFunction (function : Byte) (hdr : Header) (data : List Byte) : Statement (.unknownFunction function hdr data) := ⟨_, rfl⟩
theorem exceptionResponse (hdr : Header) (function : Byte) (e : Byte) : Statement (.exceptionResponse hdr function e) := ⟨_, rfl⟩
theorem crcInit : Statement (.crcInit) := ⟨_, rfl⟩
theorem crcUpdate (b : Byte) : Statement (.crcUpdate b) := ⟨_, rfl⟩
theorem crc16 (buf : List Byte) : Statement (.crc16 buf) := ⟨_, rfl⟩
theorem crcCheck (adu : List Byte) : Statement (.crcCheck adu) := ⟨_, rfl⟩
theorem bitsPack (bits : List Bool) : Statement (.bitsPack bits) := ⟨_, rfl⟩
theorem bitsUnpack (bytes : List Byte) (n : Word) : Statement (.bitsUnpack bytes n) := ⟨_, rfl⟩
theorem rtuParse (b : List Byte) : Statement (.rtuParse b) := ⟨_, rfl⟩
theorem rtuSerialize (f : RtuFrame) : Statement (.rtuSerialize f) := ⟨_, rfl⟩
theorem tcpParse (b : List Byte) : Statement (.tcpParse b) := ⟨_, rfl⟩
theorem tcpSerialize (f : TcpFrame) : Statement (.tcpSerialize f) := ⟨_, rfl⟩
theorem excInject (f : Frame) (e : Byte) : Statement (.excInject f e) := ⟨_, rfl⟩
theorem respBuild (req : Frame) (payload : List Byte) (e : Byte) : Statement (.respBuild req payload e) := ⟨_, rfl⟩
theorem fnLookup (fc : Byte) : Statement (.fnLookup fc) := ⟨_, rfl⟩
theorem handle (req : Request) : Statement (.handle req) := ⟨_, rfl⟩
theorem route (bytes : List Byte) (sink : SinkId) : Statement (.route bytes sink) := ⟨_, rfl⟩
theorem fnSet (fc : Byte) (h : Option HandlerId) : Statement (.fnSet fc h) := ⟨_, rfl⟩
theorem close : Statement (.close) := ⟨_, rfl⟩
theorem enqueue (req : Request) : Statement (.enqueue req) := ⟨_, rfl⟩
theorem bankReadCoils (start : Word) (count : Word) : Statement (.bankReadCoils start count) := ⟨_, rfl⟩
theorem bankReadDiscreteInputs (start : Word) (count : Word) : Statement (.bankReadDiscreteInputs start count) := ⟨_, rfl⟩
theorem bankReadHoldingRegisters (start : Word) (count : Word) : Statement (.bankReadHoldingRegisters start count) := ⟨_, rfl⟩
theorem bankReadInputRegisters (start : Word) (count : Word) : Statement (.bankReadInputRegisters start count) := ⟨_, rfl⟩
theorem bankWriteSingleCoil (addr : Word) (v : Bool) : Statement (.bankWriteSingleCoil addr v) := ⟨_, rfl⟩
theorem bankWriteSingleRegister (addr : Word) (v : Word) : Statement (.bankWriteSingleRegister addr v) := ⟨_, rfl⟩
theorem bankWriteMultipleCoils (start : Word) (bits : List Bool) : Statement (.bankWriteMultipleCoils start bits) := ⟨_, rfl⟩
theorem bankWriteMultipleRegisters (start : Word) (words : List Word) : Statement (.bankWriteMultipleRegisters start words) := ⟨_, rfl⟩
theorem reservedOpsel (opsel : Byte) : Statement (.reservedOpsel opsel) := ⟨_, rfl⟩

end Sys2Proof.Laws.CodeByte
end

