-- ==== Sys2Proof/Laws/Readers.lean ====
section
/-! SUPPORT. Laws of the readers: what a step of one connection, one port or one accept unit does, and that it keeps the source sound. -/

namespace Sys2Proof.Machine

variable {p : Params} {close : Bool} {sink : SinkId} {life : Life} {c c' : Conn} {sp sp' : SerialPort}

@[simp] theorem Conn.teardown_rstate (c : Conn) : c.teardown.rstate = .closed := rfl
@[simp] theorem Conn.teardown_out (c : Conn) : c.teardown.out = c.out := rfl
@[simp] theorem SerialPort.shut_rstate (sp : SerialPort) : sp.shut.rstate = .closed := rfl
@[simp] theorem SerialPort.shut_out (sp : SerialPort) : sp.shut.out = sp.out := rfl

theorem Conn.teardown_wf (sink : SinkId) (c : Conn) : c.teardown.wf sink := by
  constructor <;> simp [Conn.teardown, TcpReader.wf]

theorem SerialPort.shut_wf (sink : SinkId) (sp : SerialPort) : sp.shut.wf sink := by
  constructor <;> simp [SerialPort.shut, RtuReader.wf]

/-- A header read appends to the header buffer, or completes the header and takes its length, or tears down on length 0. -/
theorem Conn.readHeader_eq_some {k : Nat} (h : c.readHeader k = some c') :
    ∃ hbuf, c.rstate = .hdr hbuf ∧ 1 ≤ k ∧ k ≤ min (7 - hbuf.length) c.inp.length ∧
      ((hbuf.length + k < 7 ∧ c' = { c with rstate := .hdr (hbuf ++ c.inp.take k), inp := c.inp.drop k }) ∨
       (hbuf.length + k = 7 ∧ beWord (hbuf ++ c.inp.take k) 4 = 0#16 ∧ c' = c.teardown) ∨
       (hbuf.length + k = 7 ∧ beWord (hbuf ++ c.inp.take k) 4 ≠ 0#16 ∧
        c' = { c with
          rstate := .body (hbuf ++ c.inp.take k) ((beWord (hbuf ++ c.inp.take k) 4).toNat - 1) []
          inp := c.inp.drop k })) := by
  unfold Conn.readHeader at h
  split at h
  · rename_i hbuf hr
    split at h
    · rename_i hk
      have hlen : (hbuf ++ c.inp.take k).length = hbuf.length + k := by simp; omega
      refine ⟨hbuf, hr, hk.1, hk.2, ?_⟩
      simp only [hlen] at h
      split at h
      · rename_i hlt; injection h with h; exact .inl ⟨hlt, h.symm⟩
      · rename_i hge
        split at h
        · rename_i hz; injection h with h; exact .inr (.inl ⟨by omega, hz, h.symm⟩)
        · rename_i hz; injection h with h; exact .inr (.inr ⟨by omega, hz, h.symm⟩)
    · cases h
  · cases h

theorem Conn.readBody_eq_some {k : Nat} (h : c.readBody k = some c') :
    ∃ head need bbuf, c.rstate = .body head need bbuf ∧ 1 ≤ k ∧ k ≤ min need c.inp.length ∧
      c' = { c with rstate := .body head (need - k) (bbuf ++ c.inp.take k), inp := c.inp.drop k } := by
  unfold Conn.readBody at h
  split at h
  · rename_i head need bbuf hr
    split at h
    · rename_i hk; injection h with h; exact ⟨head, need, bbuf, hr, hk.1, hk.2, h.symm⟩
    · cases h
  · cases h

/-- A packet that parses has at least 8 bytes, of which Data is all but 8. -/
theorem parseTcp_eq_ok {b : List Byte} {f : TcpFrame} (h : parseTcp p b = .ok f) :
    8 ≤ b.length ∧ f = ⟨beWord b 0, beWord b 2, byteAt b 6, byteAt b 7, b.drop 8⟩ ∧
      (p.tcpLengthCheck = .strict → (beWord b 4).toNat = b.length - 6) := by
  unfold parseTcp at h
  split at h
  · cases h
  · split at h
    · cases h
    · rename_i h1 h2
      injection h with h
      exact ⟨by omega, h.symm, fun hs => by by_contra hne; exact h2 ⟨hs, hne⟩⟩

/-- A string that parses has at least 4 bytes and its CRC last, and its Data is all but 4 bytes. -/
theorem parseRtu_eq_ok {b : List Byte} {f : RtuFrame} (h : parseRtu b = .ok f) :
    4 ≤ b.length ∧ crcOf (crcPrefix b) = crcTrailer b ∧ f = ⟨byteAt b 0, byteAt b 1, slice b 2 (b.length - 2)⟩ := by
  unfold parseRtu at h
  split at h
  · cases h
  · split at h
    · cases h
    · rename_i h1 h2
      injection h with h
      exact ⟨by omega, not_not.1 h2, h.symm⟩

theorem Conn.parse_eq_some (h : c.parse p sink = some c') :
    ∃ head bbuf, c.rstate = .body head 0 bbuf ∧
      ((∃ f, parseTcp p (head ++ bbuf) = .ok f ∧ c' = { c with rstate := .enq ⟨.tcp f, sink⟩ }) ∨
       ((∃ e, parseTcp p (head ++ bbuf) = .error e) ∧ c' = c.teardown)) := by
  unfold Conn.parse at h
  split at h
  · rename_i head bbuf hr
    split at h
    · rename_i f hf; injection h with h; exact ⟨head, bbuf, hr, .inl ⟨f, hf, h.symm⟩⟩
    · rename_i e he; injection h with h; exact ⟨head, bbuf, hr, .inr ⟨⟨e, he⟩, h.symm⟩⟩
  · cases h

theorem Conn.closeCheck_eq_some (h : c.closeCheck close = some c') :
    close = true ∧ ((∃ x, c.rstate = .hdr x) ∨ ∃ x y z, c.rstate = .body x y z) ∧ c' = c.teardown := by
  unfold Conn.closeCheck at h
  split at h
  · rename_i hr
    split at h
    · rename_i hc; injection h with h; exact ⟨hc, .inl ⟨_, hr⟩, h.symm⟩
    · cases h
  · rename_i hr
    split at h
    · rename_i hc; injection h with h; exact ⟨hc, .inr ⟨_, _, _, hr⟩, h.symm⟩
    · cases h
  · cases h

theorem Conn.endOfInput_eq_some (h : c.endOfInput = some c') :
    ((∃ x, c.rstate = .hdr x) ∨ ∃ x y z, c.rstate = .body x y z ∧ 0 < y) ∧ c.inp = [] ∧ c.eof = true ∧ c' = c.teardown := by
  unfold Conn.endOfInput at h
  split at h
  · rename_i hr
    split at h
    · rename_i hc; injection h with h; exact ⟨.inl ⟨_, hr⟩, hc.1, hc.2, h.symm⟩
    · cases h
  · rename_i hr
    split at h
    · rename_i hc; injection h with h; exact ⟨.inr ⟨_, _, _, hr, hc.1⟩, hc.2.1, hc.2.2, h.symm⟩
    · cases h
  · cases h

theorem Conn.receive_eq_some {bytes : List Byte} (h : c.receive bytes = some c') :
    c.eof = false ∧ c.rstate ≠ .closed ∧ c' = { c with inp := c.inp ++ bytes } := by
  unfold Conn.receive at h
  split at h
  · rename_i hc; injection h with h; exact ⟨hc.1, hc.2, h.symm⟩
  · cases h

/-- What a step of a connection does to its control state: it is kept, or leaves a reading state, or enters `T_ENQ` from a full body, or
closes; and nothing is written to the source. -/
theorem ConnStep.rstate (h : ConnStep p close sink c c') :
    c'.out = c.out ∧
    ((c'.rstate = c.rstate ∧ ∃ more, c'.inp = c.inp ++ more ∧ c'.isOpen = c.isOpen ∧ (c.rstate = .closed → more = [])) ∨
     ((∃ x, c.rstate = .hdr x) ∨ ∃ x y z, c.rstate = .body x y z)) := by
  cases h with
  | header k h =>
    obtain ⟨hbuf, hr, _, _, h⟩ := Conn.readHeader_eq_some h
    refine ⟨?_, .inr (.inl ⟨_, hr⟩)⟩
    rcases h with ⟨_, rfl⟩ | ⟨_, _, rfl⟩ | ⟨_, _, rfl⟩ <;> rfl
  | body k h =>
    obtain ⟨_, _, _, hr, _, _, rfl⟩ := Conn.readBody_eq_some h
    exact ⟨rfl, .inr (.inr ⟨_, _, _, hr⟩)⟩
  | parse h =>
    obtain ⟨_, _, hr, h⟩ := Conn.parse_eq_some h
    refine ⟨?_, .inr (.inr ⟨_, _, _, hr⟩)⟩
    rcases h with ⟨_, _, rfl⟩ | ⟨_, rfl⟩ <;> rfl
  | closeCheck h => obtain ⟨_, hr, rfl⟩ := Conn.closeCheck_eq_some h; exact ⟨rfl, .inr hr⟩
  | endOfInput h =>
    obtain ⟨hr, _, _, rfl⟩ := Conn.endOfInput_eq_some h
    refine ⟨rfl, .inr ?_⟩
    rcases hr with hr | ⟨x, y, z, hr, _⟩
    · exact .inl hr
    · exact .inr ⟨x, y, z, hr⟩
  | receive b h =>
    obtain ⟨_, hn, rfl⟩ := Conn.receive_eq_some h
    exact ⟨rfl, .inl ⟨rfl, b, rfl, rfl, fun hc => absurd hc hn⟩⟩
  | hangUp h =>
    simp only [Conn.hangUp, Option.some.injEq] at h
    rw [← h]; exact ⟨rfl, .inl ⟨rfl, [], by simp, rfl, fun _ => rfl⟩⟩

/-- A step of a connection keeps it sound. -/
theorem ConnStep.wf (h : ConnStep p close sink c c') (hw : c.wf sink) : c'.wf sink := by
  have hnot : ∀ r, c.rstate = r → r ≠ .closed → c.isOpen = true := fun r hr hn => hw.openIff.2 (hr ▸ hn)
  cases h with
  | header k h =>
    obtain ⟨hbuf, hr, _, hk, h⟩ := Conn.readHeader_eq_some h
    have ho := hnot _ hr (by simp)
    rcases h with ⟨hlt, rfl⟩ | ⟨_, _, rfl⟩ | ⟨h7, hz, rfl⟩
    · constructor <;> simp [ho, TcpReader.wf]; omega
    · exact Conn.teardown_wf _ _
    · constructor
      · refine ⟨by simp; omega, ?_⟩
        have : (beWord (hbuf ++ c.inp.take k) 4).toNat ≠ 0 := fun h0 => hz (BitVec.eq_of_toNat_eq (by simpa using h0))
        simp only [List.length_nil]; omega
      · simp [ho]
      · simp
  | body k h =>
    obtain ⟨head, need, bbuf, hr, _, hk, rfl⟩ := Conn.readBody_eq_some h
    have ho := hnot _ hr (by simp)
    have hwr := hw.reader
    rw [hr] at hwr
    obtain ⟨h7, hn⟩ := hwr
    constructor
    · refine ⟨h7, ?_⟩
      simp only [List.length_append, List.length_take]; omega
    · simp [ho]
    · simp
  | parse h =>
    obtain ⟨head, bbuf, hr, h⟩ := Conn.parse_eq_some h
    have ho := hnot _ hr (by simp)
    have hwr := hw.reader
    rw [hr] at hwr
    obtain ⟨h7, hn⟩ := hwr
    rcases h with ⟨f, hf, rfl⟩ | ⟨_, rfl⟩
    · obtain ⟨h8, rfl, _⟩ := parseTcp_eq_ok hf
      constructor
      · refine ⟨rfl, _, rfl, ?_⟩
        have := (beWord head 4).isLt
        simp only [List.length_drop, List.length_append, Config.maxTcpData]; omega
      · simp [ho]
      · simp
    · exact Conn.teardown_wf _ _
  | closeCheck h => obtain ⟨_, _, rfl⟩ := Conn.closeCheck_eq_some h; exact Conn.teardown_wf _ _
  | endOfInput h => obtain ⟨_, _, _, rfl⟩ := Conn.endOfInput_eq_some h; exact Conn.teardown_wf _ _
  | receive b h =>
    obtain ⟨_, hn, rfl⟩ := Conn.receive_eq_some h
    exact ⟨hw.reader, hw.openIff, fun hc => absurd hc hn⟩
  | hangUp h =>
    simp only [Conn.hangUp, Option.some.injEq] at h
    rw [← h]; exact ⟨hw.reader, hw.openIff, hw.dropped⟩

theorem SerialPort.readChunk_eq_some {chunk : List Byte} (h : sp.readChunk sink chunk = some sp') :
    sp.rstate = .block ∧ chunk.length ≤ Config.rtuReadMax ∧
      (sp' = { sp with rstate := .check } ∨
       ∃ f, parseRtu chunk = .ok f ∧ sp' = { sp with rstate := .enq ⟨.rtu f, sink⟩ }) := by
  unfold SerialPort.readChunk at h
  split at h
  · rename_i hc
    refine ⟨hc.1, hc.2, ?_⟩
    split at h
    · injection h with h; exact .inl h.symm
    · split at h
      · rename_i f hf; injection h with h; exact .inr ⟨f, hf, h.symm⟩
      · injection h with h; exact .inl h.symm
  · cases h

/-- What a step of a port does: it was in `U_OFF`, `U_CHECK` or `U_BLOCK`, and nothing is written to the source. -/
theorem PortStep.rstate (h : PortStep life close sink sp sp') :
    sp'.out = sp.out ∧ (sp.rstate = .off ∨ sp.rstate = .check ∨ sp.rstate = .block) := by
  cases h with
  | start h =>
    unfold SerialPort.startReader at h
    split at h
    · rename_i hc; injection h with h; rw [← h]; exact ⟨rfl, .inl hc.1⟩
    · cases h
  | unstarted h =>
    unfold SerialPort.closeUnstarted at h
    split at h
    · rename_i hc; injection h with h; rw [← h]; exact ⟨rfl, .inl hc.1⟩
    · cases h
  | check h =>
    unfold SerialPort.checkClose at h
    split at h
    · rename_i hr
      split at h <;> (injection h with h; rw [← h]; exact ⟨rfl, .inr (.inl hr)⟩)
    · cases h
  | read chunk h =>
    obtain ⟨hr, _, h⟩ := SerialPort.readChunk_eq_some h
    refine ⟨?_, .inr (.inr hr)⟩
    rcases h with rfl | ⟨_, _, rfl⟩ <;> rfl
  | error h =>
    unfold SerialPort.portError at h
    split at h
    · rename_i hr; injection h with h; rw [← h]; exact ⟨rfl, .inr (.inr hr)⟩
    · cases h

/-- A step of a port keeps it sound. -/
theorem PortStep.wf (h : PortStep life close sink sp sp') (hw : sp.wf sink) : sp'.wf sink := by
  have ho : sp.isOpen = true := hw.openIff.2 (by rcases h.rstate.2 with hr | hr | hr <;> rw [hr] <;> simp)
  cases h with
  | start h =>
    unfold SerialPort.startReader at h
    split at h
    · injection h with h; rw [← h]; constructor <;> simp [ho, RtuReader.wf]
    · cases h
  | unstarted h =>
    unfold SerialPort.closeUnstarted at h
    split at h
    · injection h with h; rw [← h]; exact SerialPort.shut_wf _ _
    · cases h
  | check h =>
    unfold SerialPort.checkClose at h
    split at h
    · split at h
      · injection h with h; rw [← h]; exact SerialPort.shut_wf _ _
      · injection h with h; rw [← h]; constructor <;> simp [ho, RtuReader.wf]
    · cases h
  | read chunk h =>
    obtain ⟨_, hlen, h⟩ := SerialPort.readChunk_eq_some h
    rcases h with rfl | ⟨f, hf, rfl⟩
    · constructor <;> simp [ho, RtuReader.wf]
    · obtain ⟨h4, _, rfl⟩ := parseRtu_eq_ok hf
      constructor
      · refine ⟨rfl, _, rfl, ?_⟩
        simp only [slice, List.length_drop, List.length_take, Config.rtuReadMax] at *; omega
      · simp [ho]
  | error h =>
    unfold SerialPort.portError at h
    split at h
    · injection h with h; rw [← h]; exact SerialPort.shut_wf _ _
    · cases h

/-! The queries about a source's reader, by its state. -/

theorem State.SourcesWf.congr {s t : State} (h : CoreEq s t) (hw : s.SourcesWf) : t.SourcesWf :=
  ⟨fun l n c hc => hw.conns l n c (by rwa [State.conn?_congr h.listeners] at hc),
   fun p sp hp => hw.ports p sp (by rwa [State.port?_congr h.ports] at hp)⟩

theorem Conn.deliver_release_wf {k : SinkId} {c : Conn} (b : List Byte) (hw : c.wf k) : (c.deliver b).release.wf k := by
  have h1 : (c.deliver b).wf k := by
    unfold Conn.deliver; split
    · exact ⟨hw.reader, hw.openIff, hw.dropped⟩
    · exact hw
  unfold Conn.release
  split
  · rename_i r hr
    have ho := h1.openIff.2 (by rw [hr]; simp)
    constructor <;> simp [TcpReader.wf, ho]
  · exact h1

theorem SerialPort.deliver_release_wf {k : SinkId} {c : SerialPort} (b : List Byte) (hw : c.wf k) : (c.deliver b).release.wf k := by
  have h1 : (c.deliver b).wf k := by
    unfold SerialPort.deliver; split
    · exact ⟨hw.reader, hw.openIff⟩
    · exact hw
  unfold SerialPort.release
  split
  · rename_i r hr
    have ho := h1.openIff.2 (by rw [hr]; simp)
    constructor <;> simp [RtuReader.wf, ho]
  · exact h1

theorem State.parsedRequest_tcp_iff {s : State} {l n : Nat} {req : Request} :
    s.parsedRequest (.tcp l n) = some req ↔ ∃ c, s.conn? l n = some c ∧ c.rstate = .enq req := by
  simp only [State.parsedRequest]
  constructor
  · intro h
    split at h
    · rename_i c hc; injection h with h; subst h; exact ⟨_, hc, rfl⟩
    · cases h
  · rintro ⟨⟨r, o, out, inp, eof⟩, hc, hr⟩
    simp only at hr; subst hr; simp [hc]

theorem State.parsedRequest_rtu_iff {s : State} {p : Nat} {req : Request} :
    s.parsedRequest (.rtu p) = some req ↔ ∃ c, s.port? p = some c ∧ c.rstate = .enq req := by
  simp only [State.parsedRequest]
  constructor
  · intro h
    split at h
    · rename_i c hc; injection h with h; subst h; exact ⟨_, hc, rfl⟩
    · cases h
  · rintro ⟨⟨r, o, out⟩, hc, hr⟩
    simp only at hr; subst hr; simp [hc]

theorem State.awaited_tcp_iff {s : State} {l n : Nat} {req : Request} :
    s.awaited (.tcp l n) = some req ↔ ∃ c, s.conn? l n = some c ∧ c.rstate = .wait req := by
  simp only [State.awaited]
  constructor
  · intro h
    split at h
    · rename_i c hc; injection h with h; subst h; exact ⟨_, hc, rfl⟩
    · cases h
  · rintro ⟨⟨r, o, out, inp, eof⟩, hc, hr⟩
    simp only at hr; subst hr; simp [hc]

theorem State.awaited_rtu_iff {s : State} {p : Nat} {req : Request} :
    s.awaited (.rtu p) = some req ↔ ∃ c, s.port? p = some c ∧ c.rstate = .wait req := by
  simp only [State.awaited]
  constructor
  · intro h
    split at h
    · rename_i c hc; injection h with h; subst h; exact ⟨_, hc, rfl⟩
    · cases h
  · rintro ⟨⟨r, o, out⟩, hc, hr⟩
    simp only at hr; subst hr; simp [hc]


theorem State.readersClosed_iff (s : State) :
    s.readersClosed = true ↔
      (∀ l n c, s.conn? l n = some c → c.rstate = .closed) ∧ ∀ p sp, s.port? p = some sp → sp.rstate = .closed := by
  simp only [State.readersClosed, Bool.and_eq_true, List.all_eq_true, decide_eq_true_eq]
  constructor
  · rintro ⟨h1, h2⟩
    constructor
    · intro l n c hc
      obtain ⟨li, hli, hn⟩ := State.conn?_isSome_listener hc
      exact h1 li (List.mem_of_getElem? hli) c (List.mem_of_getElem? hn)
    · intro p sp hp; exact h2 sp (List.mem_of_getElem? hp)
  · rintro ⟨h1, h2⟩
    constructor
    · intro li hli c hc
      obtain ⟨l, hl⟩ := List.mem_iff_getElem?.1 hli
      obtain ⟨n, hn⟩ := List.mem_iff_getElem?.1 hc
      exact h1 l n c (by simp [State.conn?, State.listener?, hl, hn])
    · intro sp hsp
      obtain ⟨p, hp⟩ := List.mem_iff_getElem?.1 hsp
      exact h2 p sp hp

end Sys2Proof.Machine
end

