-- ==== Sys2Proof/Tests/Slice0.lean ====
section
/-! SUPPORT. Tests on fixed values: ill-formed instructions, words written out from the spec's code tables (R90, R93, R102), and the
vectors of spec/95_test_vectors.md, whose numbers V<n> name their source. Command operands stand in the model's layout (log entry 11). -/

namespace Sys2Proof.Tests

open Sys2Proof.Machine

set_option maxRecDepth 8000

/-! WellFormed: each check refuses an ill-formed instruction. -/

theorem test_wf_unknown_function : (Instr.unknownFunction 0x03#8 (.rtu 1#8) []).wf = false := by decide
theorem test_wf_exception_response : (Instr.exceptionResponse (.rtu 1#8) 0x03#8 2#8).wf = false := by decide
theorem test_wf_reserved : (Instr.reservedOpsel 0x31#8).wf = false := by decide
theorem test_wf_sink_port : (Instr.route [] (.rtu (2 ^ 32))).wf = false := by decide
theorem test_wf_sink_listener : (Instr.handle ⟨.rtu ⟨1#8, 3#8, []⟩, .tcp (2 ^ 32) 0⟩).wf = false := by decide
theorem test_wf_sink_connection : (Instr.enqueue ⟨.rtu ⟨1#8, 3#8, []⟩, .tcp 0 (2 ^ 32)⟩).wf = false := by decide
theorem test_wf_handler : (Instr.fnSet 3#8 (some (.custom (2 ^ 32)))).wf = false := by decide

/-- A payload too long for the length field of RESP_BUILD. -/
theorem test_wf_payload (b : List Byte) (h : 2 ^ 32 ≤ b.length) : (Instr.respBuild (.rtu ⟨1#8, 3#8, []⟩) b 0#8).wf = false := by
  simp [Instr.wf, h]

/-! Decode: the code byte of every row, in binary from R93, R90 and R102. -/

/-- The request port with an RTU header of address 1. -/
def pdu : Port := .pdu (.rtu 1#8)

theorem test_decode_readCoils :
    decode pdu [0b00000001#8, 0x00#8, 0x64#8, 0x00#8, 0x10#8] = .ok (.readCoils (.rtu 1#8) [0x00#8, 0x64#8, 0x00#8, 0x10#8]) := by decide
theorem test_decode_readDiscreteInputs :
    decode pdu [0b00000010#8, 0x00#8, 0x00#8, 0x00#8, 0x40#8] =
      .ok (.readDiscreteInputs (.rtu 1#8) [0x00#8, 0x00#8, 0x00#8, 0x40#8]) := by decide
theorem test_decode_readHoldingRegisters :
    decode pdu [0b00000011#8, 0xFF#8, 0xFF#8, 0x00#8, 0x02#8] =
      .ok (.readHoldingRegisters (.rtu 1#8) [0xFF#8, 0xFF#8, 0x00#8, 0x02#8]) := by decide
theorem test_decode_readInputRegisters :
    decode pdu [0b00000100#8, 0x00#8] = .ok (.readInputRegisters (.rtu 1#8) [0x00#8]) := by decide
theorem test_decode_writeSingleCoil :
    decode (.pdu (.tcp 7#16 0#16 1#8)) [0b00000101#8, 0x00#8, 0x01#8, 0xFF#8, 0x00#8] =
      .ok (.writeSingleCoil (.tcp 7#16 0#16 1#8) [0x00#8, 0x01#8, 0xFF#8, 0x00#8]) := by decide
theorem test_decode_writeSingleRegister :
    decode pdu [0b00000110#8, 0xFF#8, 0xFF#8, 0xAB#8, 0xCD#8] =
      .ok (.writeSingleRegister (.rtu 1#8) [0xFF#8, 0xFF#8, 0xAB#8, 0xCD#8]) := by decide
theorem test_decode_writeMultipleCoils :
    decode pdu [0b00001111#8, 0x00#8, 0x64#8, 0x00#8, 0x09#8, 0x02#8, 0xFF#8, 0x01#8] =
      .ok (.writeMultipleCoils (.rtu 1#8) [0x00#8, 0x64#8, 0x00#8, 0x09#8, 0x02#8, 0xFF#8, 0x01#8]) := by decide
theorem test_decode_writeMultipleRegisters :
    decode pdu [0b00010000#8, 0x00#8, 0x01#8, 0x00#8, 0x02#8, 0x04#8, 0x00#8, 0x03#8, 0x00#8, 0x04#8] =
      .ok (.writeMultipleRegisters (.rtu 1#8) [0x00#8, 0x01#8, 0x00#8, 0x02#8, 0x04#8, 0x00#8, 0x03#8, 0x00#8, 0x04#8]) := by decide
theorem test_decode_unknownFunction :
    decode pdu [0b00101011#8, 0x0E#8] = .ok (.unknownFunction 0x2B#8 (.rtu 1#8) [0x0E#8]) ∧
    decode pdu [0b10000001#8] = .ok (.unknownFunction 0x81#8 (.rtu 1#8) []) := by decide
theorem test_decode_exceptionResponse :
    decode (.response (.rtu 1#8)) [0b10000011#8, 0x02#8] = .ok (.exceptionResponse (.rtu 1#8) 0x83#8 0x02#8) := by decide
theorem test_decode_crcInit : decode .command [0b00000001#8] = .ok .crcInit := by decide
theorem test_decode_crcUpdate : decode .command [0b00000010#8, 0xAB#8] = .ok (.crcUpdate 0xAB#8) := by decide
theorem test_decode_crc16 : decode .command [0b00000011#8, 0x01#8, 0x02#8] = .ok (.crc16 [0x01#8, 0x02#8]) := by decide
theorem test_decode_crcCheck : decode .command [0b00000100#8, 0xFF#8, 0xFF#8] = .ok (.crcCheck [0xFF#8, 0xFF#8]) := by decide
theorem test_decode_bitsPack : decode .command [0b00010000#8, 1#8, 0#8, 1#8] = .ok (.bitsPack [true, false, true]) := by decide
theorem test_decode_bitsUnpack :
    decode .command [0b00010001#8, 0x01#8, 0x09#8, 0xFF#8] = .ok (.bitsUnpack [0xFF#8] 0x0109#16) := by decide
theorem test_decode_rtuParse : decode .command [0b00100000#8, 0x01#8] = .ok (.rtuParse [0x01#8]) := by decide
theorem test_decode_rtuSerialize :
    decode .command [0b00100001#8, 0x01#8, 0x83#8, 0x02#8] = .ok (.rtuSerialize ⟨0x01#8, 0x83#8, [0x02#8]⟩) := by decide
theorem test_decode_tcpParse : decode .command [0b00100010#8] = .ok (.tcpParse []) := by decide
theorem test_decode_tcpSerialize :
    decode .command [0b00100011#8, 0x12#8, 0x34#8, 0xAB#8, 0xCD#8, 0x11#8, 0x03#8, 0x55#8] =
      .ok (.tcpSerialize ⟨0x1234#16, 0xABCD#16, 0x11#8, 0x03#8, [0x55#8]⟩) := by decide
theorem test_decode_excInject :
    decode .command [0b00100100#8, 0x02#8, 0x00#8, 0x01#8, 0x03#8, 0xFF#8] =
      .ok (.excInject (.rtu ⟨0x01#8, 0x03#8, [0xFF#8]⟩) 0x02#8) := by decide
theorem test_decode_respBuild :
    decode .command [0b00100101#8, 0x03#8, 0#8, 0#8, 0#8, 2#8, 0xAA#8, 0xBB#8, 0x00#8, 0x01#8, 0x03#8, 0xFF#8] =
      .ok (.respBuild (.rtu ⟨0x01#8, 0x03#8, [0xFF#8]⟩) [0xAA#8, 0xBB#8] 0x03#8) := by decide
theorem test_decode_fnLookup : decode .command [0b00110000#8, 0x10#8] = .ok (.fnLookup 0x10#8) := by decide
theorem test_decode_handle :
    decode .command [0b00110001#8, 0x00#8, 0#8, 0#8, 0#8, 5#8, 0x00#8, 0x01#8, 0x2B#8, 0x0E#8] =
      .ok (.handle ⟨.rtu ⟨0x01#8, 0x2B#8, [0x0E#8]⟩, .rtu 5⟩) := by decide
theorem test_decode_route :
    decode .command [0b00110010#8, 0x01#8, 0#8, 0#8, 0#8, 2#8, 0#8, 0#8, 1#8, 0#8, 0xAA#8] = .ok (.route [0xAA#8] (.tcp 2 256)) := by
  decide
theorem test_decode_fnSet :
    decode .command [0b00110011#8, 0x03#8, 0x00#8] = .ok (.fnSet 0x03#8 none) ∧
    decode .command [0b00110011#8, 0x02#8, 0x09#8, 0#8, 0#8, 0#8, 7#8] = .ok (.fnSet 0x02#8 (some (.custom 7))) := by decide
theorem test_decode_close : decode .command [0b00110100#8] = .ok .close := by decide
theorem test_decode_enqueue :
    decode .command [0b00110101#8, 0x00#8, 0#8, 0#8, 0#8, 0#8, 0x00#8, 0x01#8, 0x03#8] =
      .ok (.enqueue ⟨.rtu ⟨0x01#8, 0x03#8, []⟩, .rtu 0⟩) := by decide
theorem test_decode_bankReads :
    decode .command [0b01000000#8, 0x12#8, 0x34#8, 0x56#8, 0x78#8] = .ok (.bankReadCoils 0x1234#16 0x5678#16) ∧
    decode .command [0b01000001#8, 0x12#8, 0x34#8, 0x56#8, 0x78#8] = .ok (.bankReadDiscreteInputs 0x1234#16 0x5678#16) ∧
    decode .command [0b01000010#8, 0x12#8, 0x34#8, 0x56#8, 0x78#8] = .ok (.bankReadHoldingRegisters 0x1234#16 0x5678#16) ∧
    decode .command [0b01000011#8, 0x12#8, 0x34#8, 0x56#8, 0x78#8] = .ok (.bankReadInputRegisters 0x1234#16 0x5678#16) := by decide
theorem test_decode_bankWrites :
    decode .command [0b01000100#8, 0xFF#8, 0xFE#8, 0x01#8] = .ok (.bankWriteSingleCoil 0xFFFE#16 true) ∧
    decode .command [0b01000101#8, 0xFF#8, 0xFE#8, 0x12#8, 0x34#8] = .ok (.bankWriteSingleRegister 0xFFFE#16 0x1234#16) ∧
    decode .command [0b01000110#8, 0x00#8, 0x0A#8, 1#8, 0#8, 1#8] = .ok (.bankWriteMultipleCoils 0x000A#16 [true, false, true]) ∧
    decode .command [0b01000111#8, 0x00#8, 0x0A#8, 0x12#8, 0x34#8] = .ok (.bankWriteMultipleRegisters 0x000A#16 [0x1234#16]) := by decide
theorem test_decode_reservedOpsel : decode .command [0b00000101#8] = .ok (.reservedOpsel 0x05#8) := by decide

/-- Bytes that are no instruction are rejected by name. -/
theorem test_decode_rejects :
    decode pdu [] = .error .noCode ∧
    decode (.response (.rtu 1#8)) [0x03#8, 0x02#8] = .error .notAnException ∧
    decode .command [0x02#8] = .error .shortOperand ∧
    decode .command [0x01#8, 0x00#8] = .error .trailingBytes ∧
    decode .command [0x10#8, 0x02#8] = .error .badBit ∧
    decode .command [0x47#8, 0x00#8, 0x0A#8, 0x12#8] = .error .oddWords ∧
    decode .command [0x24#8, 0x01#8, 0x02#8] = .error .badKind ∧
    decode .command [0x33#8, 0x03#8, 0x0A#8] = .error .badHandler := by decide

/-- Table words: a word with its operand bytes zero, and the first step after reset that runs it. -/
theorem test_table_word :
    decodeTableWord 8 0x0F = some (.writeMultipleCoils (.rtu 0#8) [0#8, 0#8, 0#8, 0#8, 0#8]) ∧
    decodeTableWord 8 0x80 = some (.exceptionResponse (.rtu 0#8) 0x80#8 0#8) ∧
    decodeTableWord 8 0x20 = some (.rtuParse []) ∧
    decodeTableWord 8 0x07 = some (.unknownFunction 0x07#8 (.rtu 0#8) []) := by decide

/-! What a step leaves, looked at on the command port or in one part of the state. -/

/-- The command port after a step. -/
def shown : Out → Option Result
  | .next t => some t.result
  | _       => none

/-- One part of the state after a step. -/
def seen {α : Type} (f : State → α) : Out → Option α
  | .next t => some (f t)
  | _       => none

/-- The payload and exception code of a handled request. -/
def answer : Out → Option (List Byte × Byte)
  | .next ⟨_, _, _, _, _, _, _, _, _, _, _, _, .handled payload e _, _, _⟩ => some (payload, e)
  | _ => none

/-- The reset state with other parameters. -/
def resetWith (cfg : Params) : State := .construct cfg .zero

/-- The reset state with a default bank holding one coil and one holding register. -/
def filled : State :=
  { State.reset with bank := .default ⟨[(1, true)], [], [(65535, 0xABCD#16)], []⟩ }

/-- One running listener with one connection, in a given reader state with given unread bytes. -/
def withConn (r : TcpReader) (inp : List Byte) : State :=
  { State.reset with life := .running, dstate := .idle, listeners := [⟨.run, [⟨r, true, [], inp, false⟩]⟩] }

/-- One serial port in a given reader state. -/
def withPort (r : RtuReader) : State :=
  { State.reset with life := .running, dstate := .idle, ports := [⟨r, true, []⟩] }

/-- The request of V7.12. -/
def request : Request := ⟨.rtu ⟨1#8, 3#8, [0#8, 0#8, 0#8, 2#8]⟩, .rtu 0⟩

/-! CRC (V1). -/

/-- V1.1. -/
theorem test_crcInit : seen (·.crc) (exec .crcInit State.reset) = some 0xFFFF#16 := by decide
/-- V1.2. -/
theorem test_crcUpdate : seen (·.crc) (exec (.crcUpdate 0x01#8) { State.reset with crc := 0xFFFF#16, crcLoaded := true }) = some 0x807E#16 := by
  decide
/-- V1.3. -/
theorem test_crcUpdate_faults : seen (·.fault) (exec (.crcUpdate 0x01#8) State.reset) = some (some .crcUninitialised) := by decide
/-- V1.6 (S1). -/
theorem test_crc16 : shown (exec (.crc16 [0x01#8, 0x04#8, 0x02#8, 0xFF#8, 0xFF#8]) State.reset) = some (.crc 0x80B8#16) := by decide
/-- V1.4. -/
theorem test_crc16_empty : shown (exec (.crc16 []) State.reset) = some (.crc 0xFFFF#16) := by decide
/-- V1.10. -/
theorem test_crcCheck :
    shown (exec (.crcCheck [0x01#8, 0x04#8, 0x02#8, 0xFF#8, 0xFF#8, 0xB8#8, 0x80#8]) State.reset) = some (.crcOk true) := by decide
/-- V1.11. -/
theorem test_crcCheck_bad :
    shown (exec (.crcCheck [0x01#8, 0x04#8, 0x02#8, 0xFF#8, 0xFF#8, 0xB8#8, 0x81#8]) State.reset) = some (.crcOk false) ∧
    shown (exec (.crcCheck [0xFF#8, 0xFF#8]) State.reset) = some (.crcOk true) ∧
    shown (exec (.crcCheck [0xFF#8]) State.reset) = some (.crcOk false) := by decide

/-! Bit codec (V2). -/

/-- V2.5. -/
theorem test_bitsPack :
    shown (exec (.bitsPack [false, true, false, true, false, false, false, false, true, true]) State.reset) =
      some (.bytes [0x0A#8, 0x03#8]) := by decide
/-- V2.10. -/
theorem test_bitsUnpack :
    shown (exec (.bitsUnpack [0x0A#8, 0x03#8, 0x77#8] 10#16) State.reset) =
      some (.unpacked (some [false, true, false, true, false, false, false, false, true, true])) := by decide
/-- V2.8 and V2.9. -/
theorem test_bitsUnpack_short :
    shown (exec (.bitsUnpack [0xFF#8] 9#16) State.reset) = some (.unpacked none) ∧
    shown (exec (.bitsUnpack [] 0#16) State.reset) = some (.unpacked (some [])) := by decide

/-! Framers (V3). -/

/-- V3.1 (S18). -/
theorem test_rtuParse :
    shown (exec (.rtuParse [0x01#8, 0x04#8, 0x02#8, 0xFF#8, 0xFF#8, 0xB8#8, 0x80#8]) State.reset) =
      some (.parsed (.ok (.rtu ⟨1#8, 4#8, [0x02#8, 0xFF#8, 0xFF#8]⟩))) := by decide
/-- V3.2, V3.3. -/
theorem test_rtuParse_errors :
    shown (exec (.rtuParse [0x01#8, 0x04#8, 0x02#8, 0xFF#8, 0xFF#8, 0xB8#8, 0x81#8]) State.reset) = some (.parsed (.err .crcMismatch)) ∧
    shown (exec (.rtuParse [0x01#8, 0x03#8, 0xC4#8]) State.reset) = some (.parsed (.err .short)) := by decide
/-- V3.6. -/
theorem test_rtuSerialize :
    shown (exec (.rtuSerialize ⟨1#8, 0x83#8, [2#8]⟩) State.reset) = some (.bytes [0x01#8, 0x83#8, 0x02#8, 0xC0#8, 0xF1#8]) := by decide
/-- V3.9, V3.14. -/
theorem test_tcpParse :
    shown (exec (.tcpParse [0#8, 1#8, 0#8, 0#8, 0#8, 6#8, 1#8, 3#8, 0#8, 0#8, 0#8, 2#8]) State.reset) =
      some (.parsed (.ok (.tcp ⟨1#16, 0#16, 1#8, 3#8, [0#8, 0#8, 0#8, 2#8]⟩))) ∧
    shown (exec (.tcpParse [0#8, 1#8, 0#8, 5#8, 0#8, 2#8, 1#8, 3#8]) State.reset) =
      some (.parsed (.ok (.tcp ⟨1#16, 5#16, 1#8, 3#8, []⟩))) := by decide
/-- V3.11, V3.12, V3.13. -/
theorem test_tcpParse_length :
    shown (exec (.tcpParse [0#8, 1#8, 0#8, 0#8, 0#8, 1#8, 1#8]) State.reset) = some (.parsed (.err .short)) ∧
    shown (exec (.tcpParse [0#8, 1#8, 0#8, 0#8, 0#8, 7#8, 1#8, 3#8, 0#8, 0#8, 0#8, 2#8]) State.reset) =
      some (.parsed (.err .lengthMismatch)) ∧
    shown (exec (.tcpParse [0#8, 1#8, 0#8, 0#8, 0#8, 7#8, 1#8, 3#8, 0#8, 0#8, 0#8, 2#8])
      (resetWith { Params.reference with tcpLengthCheck := .tolerant })) =
      some (.parsed (.ok (.tcp ⟨1#16, 0#16, 1#8, 3#8, [0#8, 0#8, 0#8, 2#8]⟩))) := by decide
/-- V3.16. -/
theorem test_tcpSerialize :
    shown (exec (.tcpSerialize ⟨0xFFFF#16, 0xABCD#16, 0xFF#8, 0x81#8, [1#8]⟩) State.reset) =
      some (.bytes [0xFF#8, 0xFF#8, 0xAB#8, 0xCD#8, 0x00#8, 0x03#8, 0xFF#8, 0x81#8, 0x01#8]) := by decide
/-- V3.17: the fault, for any Data of 65534 bytes. -/
theorem test_tcpSerialize_faults (d : List Byte) (h : d.length = 65534) :
    seen (·.fault) (exec (.tcpSerialize ⟨1#16, 0#16, 1#8, 3#8, d⟩) State.reset) = some (some .tcpResponseTooLong) := by
  simp [exec, execTcpSerialize, serializeTcp, h, seen, State.raise]
/-- V3.18, V3.19. -/
theorem test_excInject :
    shown (exec (.excInject (.rtu ⟨1#8, 3#8, [0xFF#8, 0xFF#8, 0#8, 2#8]⟩) 2#8) State.reset) =
      some (.frame (.rtu ⟨1#8, 0x83#8, [2#8]⟩)) ∧
    shown (exec (.excInject (.tcp ⟨7#16, 0#16, 1#8, 0x83#8, []⟩) 4#8) State.reset) =
      some (.frame (.tcp ⟨7#16, 0#16, 1#8, 0x83#8, [4#8]⟩)) := by decide
/-- V3.20. -/
theorem test_respBuild :
    shown (exec (.respBuild (.tcp ⟨7#16, 0#16, 1#8, 3#8, [0#8, 1#8, 0#8, 2#8]⟩) [4#8, 0#8, 3#8, 0#8, 4#8] 0#8) State.reset) =
      some (.frame (.tcp ⟨7#16, 0#16, 1#8, 3#8, [4#8, 0#8, 3#8, 0#8, 4#8]⟩)) := by decide
/-- V3.21. -/
theorem test_respBuild_exception :
    shown (exec (.respBuild (.tcp ⟨7#16, 0#16, 1#8, 3#8, [0#8, 1#8, 0#8, 2#8]⟩) [4#8, 0#8, 3#8, 0#8, 4#8] 3#8) State.reset) =
      some (.frame (.tcp ⟨7#16, 0#16, 1#8, 0x83#8, [3#8]⟩)) := by decide
/-- R90. -/
theorem test_exceptionResponse :
    shown (exec (.exceptionResponse (.tcp 0x1234#16 0#16 0x11#8) 0x83#8 2#8) State.reset) =
      some (.frame (.tcp ⟨0x1234#16, 0#16, 0x11#8, 0x83#8, [2#8]⟩)) := by decide

/-! Standard handlers (V4). -/

/-- V4.2, V4.3, V4.8. -/
theorem test_readCoils :
    answer (exec (.readCoils (.rtu 1#8) [0xFF#8, 0xFF#8, 0x00#8, 0x01#8]) State.reset) = some ([1#8, 0#8], 0#8) ∧
    answer (exec (.readCoils (.rtu 1#8) [0xFF#8, 0xFF#8, 0x00#8, 0x02#8]) State.reset) = some ([], 2#8) ∧
    answer (exec (.readCoils (.rtu 1#8) [0x00#8, 0x00#8]) State.reset) = some ([], 3#8) := by decide
/-- V4.1, V4.5. -/
theorem test_readCoils_counts :
    answer (exec (.readCoils (.rtu 1#8) [0#8, 0#8, 0#8, 0#8]) State.reset) = some ([0#8], 0#8) ∧
    answer (exec (.readCoils (.rtu 1#8) [0#8, 0#8, 0#8, 0#8]) (resetWith { Params.reference with emptyReadForm := .empty })) =
      some ([], 0#8) ∧
    answer (exec (.readCoils (.rtu 1#8) [0#8, 0#8, 0x07#8, 0xD1#8]) State.reset) = some ([], 3#8) := by decide
/-- V4.6 (S15). -/
theorem test_readDiscreteInputs :
    answer (exec (.readDiscreteInputs (.rtu 1#8) [0#8, 0#8, 0#8, 0x40#8]) State.reset) =
      some ([8#8, 0#8, 0#8, 0#8, 0#8, 0#8, 0#8, 0#8, 0#8], 0#8) := by decide
/-- V4.20, V4.10. -/
theorem test_readHoldingRegisters :
    answer (exec (.readHoldingRegisters (.rtu 1#8) [0xFF#8, 0xFF#8, 0#8, 1#8]) filled) = some ([2#8, 0xAB#8, 0xCD#8], 0#8) ∧
    answer (exec (.readHoldingRegisters (.rtu 1#8) [0#8, 0#8, 0#8, 0x7E#8]) State.reset) = some ([], 3#8) := by decide
/-- V4.11. -/
theorem test_readInputRegisters :
    answer (exec (.readInputRegisters (.rtu 1#8) [0#8, 0#8, 0#8, 1#8]) State.reset) = some ([2#8, 0#8, 0#8], 0#8) := by decide
/-- V4.12. -/
theorem test_writeSingleCoil :
    seen (·.bank) (exec (.writeSingleCoil (.rtu 1#8) [0#8, 1#8, 0#8, 1#8]) State.reset) =
      some (.default ⟨[(1, true)], [], [], []⟩) := by decide
/-- V4.13: the coil is 0 again, and the bank equals the reset bank as data. -/
theorem test_writeSingleCoil_clears :
    seen (·.bank) (exec (.writeSingleCoil (.rtu 1#8) [0#8, 1#8, 0#8, 0#8]) filled) =
      some (.default ⟨[], [], [(65535, 0xABCD#16)], []⟩) := by decide
/-- V4.19. -/
theorem test_writeSingleRegister :
    answer (exec (.writeSingleRegister (.rtu 1#8) [0xFF#8, 0xFF#8, 0xAB#8, 0xCD#8]) State.reset) =
      some ([0xFF#8, 0xFF#8, 0xAB#8, 0xCD#8], 0#8) ∧
    seen (·.bank) (exec (.writeSingleRegister (.rtu 1#8) [0xFF#8, 0xFF#8, 0xAB#8, 0xCD#8]) State.reset) =
      some (.default ⟨[], [], [(65535, 0xABCD#16)], []⟩) := by decide
/-- V4.14 (S9). -/
theorem test_writeMultipleCoils :
    seen (·.bank) (exec (.writeMultipleCoils (.rtu 1#8) [0#8, 0#8, 0#8, 9#8, 2#8, 0xFF#8, 0x01#8]) State.reset) =
      some (.default ⟨[(0, true), (1, true), (2, true), (3, true), (4, true), (5, true), (6, true), (7, true), (8, true)], [], [], []⟩) := by
  decide
/-- V4.15, V4.16, V4.17. -/
theorem test_writeMultipleCoils_checks :
    answer (exec (.writeMultipleCoils (.rtu 1#8) [0#8, 0#8, 0#8, 9#8, 1#8, 0xFF#8]) State.reset) = some ([], 3#8) ∧
    answer (exec (.writeMultipleCoils (.rtu 1#8) [0#8, 0#8, 0#8, 9#8, 0#8, 0xFF#8, 0x01#8]) State.reset) =
      some ([0#8, 0#8, 0#8, 9#8], 0#8) ∧
    answer (exec (.writeMultipleCoils (.rtu 1#8) [0xFF#8, 0xFF#8, 0#8, 2#8, 1#8, 3#8]) State.reset) = some ([], 2#8) := by decide
/-- V4.21. -/
theorem test_writeMultipleRegisters :
    seen (·.bank) (exec (.writeMultipleRegisters (.rtu 1#8) [0#8, 1#8, 0#8, 2#8, 4#8, 0#8, 3#8, 0#8, 4#8]) State.reset) =
      some (.default ⟨[], [], [(1, 3#16), (2, 4#16)], []⟩) := by decide
/-- V4.22, V4.23, V4.25. -/
theorem test_writeMultipleRegisters_checks :
    answer (exec (.writeMultipleRegisters (.rtu 1#8) [0#8, 0#8, 0#8, 1#8, 2#8, 0#8]) State.reset) = some ([], 3#8) ∧
    answer (exec (.writeMultipleRegisters (.rtu 1#8) [0#8, 0#8, 0#8, 1#8, 2#8, 0#8, 5#8, 9#8]) State.reset) = some ([], 3#8) ∧
    answer (exec (.writeMultipleRegisters (.rtu 1#8) [0#8, 0#8, 0#8, 1#8]) State.reset) = some ([], 3#8) := by decide
/-- S11. -/
theorem test_unknownFunction :
    shown (exec (.unknownFunction 0x2B#8 (.rtu 1#8) [0x0E#8]) State.reset) =
      some (.handled [] 1#8 (.rtu ⟨1#8, 0xAB#8, [1#8]⟩)) := by decide

/-! Register bank (V5). -/

/-- V5.1, V5.2. -/
theorem test_bankReadCoils :
    shown (exec (.bankReadCoils 65535#16 0#16) State.reset) = some (.bankBits [] 0#8) ∧
    shown (exec (.bankReadCoils 65535#16 1#16) State.reset) = some (.bankBits [false] 0#8) := by decide
/-- R152. -/
theorem test_bankReadDiscreteInputs :
    shown (exec (.bankReadDiscreteInputs 65535#16 2#16) State.reset) = some (.bankBits [] 2#8) := by decide
/-- V5.3. -/
theorem test_bankReadHoldingRegisters :
    shown (exec (.bankReadHoldingRegisters 65535#16 2#16) State.reset) = some (.bankWords [] 2#8) ∧
    shown (exec (.bankReadHoldingRegisters 65534#16 2#16) filled) = some (.bankWords [0#16, 0xABCD#16] 0#8) := by decide
/-- R154. -/
theorem test_bankReadInputRegisters :
    shown (exec (.bankReadInputRegisters 65534#16 2#16) State.reset) = some (.bankWords [0#16, 0#16] 0#8) := by decide
/-- R155. -/
theorem test_bankWriteSingleCoil :
    seen (·.bank) (exec (.bankWriteSingleCoil 65535#16 true) State.reset) = some (.default ⟨[(65535, true)], [], [], []⟩) := by decide
/-- V5.4. -/
theorem test_bankWriteSingleRegister :
    seen (·.bank) (exec (.bankWriteSingleRegister 65535#16 0x1234#16) State.reset) =
      some (.default ⟨[], [], [(65535, 0x1234#16)], []⟩) := by decide
/-- V5.6. -/
theorem test_bankWriteMultipleCoils :
    seen (·.bank) (exec (.bankWriteMultipleCoils 10#16 [true, false, true]) State.reset) =
      some (.default ⟨[(10, true), (12, true)], [], [], []⟩) := by decide
/-- V5.5. -/
theorem test_bankWriteMultipleRegisters :
    exec (.bankWriteMultipleRegisters 65535#16 [1#16, 2#16]) filled = .next { filled with result := .bankExc 2#8 } := by rfl

/-! Dispatch (V6). -/

/-- V6.1, V6.2. -/
theorem test_fnLookup :
    shown (exec (.fnLookup 0x10#8) State.reset) = some (.slot (some .stdWriteMultipleRegisters)) ∧
    shown (exec (.fnLookup 0x07#8) State.reset) = some (.slot none) ∧
    shown (exec (.fnLookup 0xFF#8) State.reset) = some (.slot none) := by decide
/-- V6.3. -/
theorem test_handle :
    shown (exec (.handle ⟨.rtu ⟨1#8, 0x2B#8, [0x0E#8]⟩, .rtu 0⟩) State.reset) =
      some (.response [0x01#8, 0xAB#8, 0x01#8, 0x9E#8, 0xF0#8] (.rtu 0)) := by decide
/-- V6.5. -/
theorem test_handle_reads :
    shown (exec (.handle request) State.reset) =
      some (.response [0x01#8, 0x03#8, 0x04#8, 0#8, 0#8, 0#8, 0#8, 0xFA#8, 0x33#8] (.rtu 0)) := by decide
/-- R190, R192 (a): from `start()` on HANDLE is the dispatcher's step for the head of the queue, and waits for any other request. -/
theorem test_handle_running :
    seen (fun t => (t.queue, t.dstate)) (exec (.handle request) { withPort (.wait request) with queue := [request] }) =
      some ([], .write [0x01#8, 0x03#8, 0x04#8, 0#8, 0#8, 0#8, 0#8, 0xFA#8, 0x33#8] (.rtu 0)) ∧
    shown (exec (.handle request) (withPort .check)) = some .waiting := by decide
/-- R190, R262: from `start()` on no command writes the bank, and a request runs as the dispatcher's step only. -/
theorem test_bank_running :
    seen (fun t => (t.bank, t.result)) (exec (.bankWriteSingleCoil 5#16 true) (withPort .check)) = some (.zero, .waiting) ∧
    seen (fun t => (t.queue, t.result)) (exec (.readHoldingRegisters (.rtu 1#8) [0#8, 0#8, 0#8, 2#8])
      { withPort (.wait request) with queue := [request] }) =
      some ([], .handled [4#8, 0#8, 0#8, 0#8, 0#8] 0#8 (.rtu ⟨1#8, 3#8, [4#8, 0#8, 0#8, 0#8, 0#8]⟩)) := by decide
/-- R150, R161, R162: a custom bank's empty read, and a read of what was just written. -/
theorem test_custom_bank :
    ((Bank.custom 7 none).readCoils 5#16 0#16).bits = [] ∧
    (((Bank.custom 7 none).writeMultipleRegisters 5#16 [1#16, 2#16]).bank.readHoldingRegisters 5#16 2#16).words = [1#16, 2#16] :=
  ⟨rfl, rfl⟩
/-- R88: exactly `count` words are answered, from a bank that returned three and from one that returned none. -/
theorem test_count_words :
    (wordsAnswer .reference 2#16 (fun _ => 0xABCD#16) ⟨[1#16, 2#16, 3#16], 0#8, .custom 7 none⟩).payload =
      [0x04#8, 0x00#8, 0x01#8, 0x00#8, 0x02#8] ∧
    (wordsAnswer .reference 1#16 (fun _ => 0xABCD#16) ⟨[], 0#8, .custom 7 none⟩).payload = [0x02#8, 0xAB#8, 0xCD#8] := by
  decide
/-- R228: a port whose reader never started is closed on close. -/
theorem test_rtuUnstarted :
    seen (·.ports) (runMove (.rtuUnstarted 0) { withPort .off with life := .shutdown, close := true }) =
      some [⟨.closed, false, []⟩] := by decide
/-- V6.6. -/
theorem test_route :
    seen (fun t => (t.ports, t.dstate)) (exec (.route [0x01#8, 0x83#8] (.rtu 0))
      { withPort (.wait request) with dstate := .write [0x01#8, 0x83#8] (.rtu 0) }) =
      some ([⟨.check, true, [[0x01#8, 0x83#8]]⟩], .idle) := by decide
/-- V6.7. -/
theorem test_route_closed :
    seen (·.listeners) (exec (.route [0x01#8] (.tcp 0 0))
      { State.reset with listeners := [⟨.run, [⟨.closed, false, [], [], true⟩]⟩], dstate := .write [0x01#8] (.tcp 0 0) }) =
      some [⟨.run, [⟨.closed, false, [], [], true⟩]⟩] := by decide
/-- V6.8. -/
theorem test_fnSet :
    seen (fun t => (t.slot 3#8, t.slot 4#8)) (exec (.fnSet 3#8 none) State.reset) = some (none, some .stdReadInputRegisters) := by decide
/-- V6.9. -/
theorem test_fnSet_refused : exec (.fnSet 3#8 none) { State.reset with life := .running } = .refused (.wrongLifecycle .fnSet) := by rfl
/-- R276. -/
theorem test_close :
    seen (fun t => (t.close, t.life)) (exec .close { State.reset with life := .running }) = some (true, .shutdown) := by decide
/-- R276. -/
theorem test_close_refused : exec .close State.reset = .refused (.wrongLifecycle .shutdown) := by rfl
/-- V7.7, on a port. -/
theorem test_enqueue :
    seen (fun t => (t.queue, t.ports)) (exec (.enqueue request) (withPort (.enq request))) =
      some ([request], [⟨.wait request, true, []⟩]) := by decide
/-- V7.8, with a queue of one. -/
theorem test_enqueue_waits :
    shown (exec (.enqueue request)
      { withPort (.enq request) with cfg := { Params.reference with channelDepth := 1 }, queue := [request] }) = some .waiting := by decide
/-- R103. -/
theorem test_reservedOpsel : exec (.reservedOpsel 0x05#8) State.reset = .refused (.reservedOpsel 0x05#8) := by rfl

/-! Readers and accept units (V7). -/

/-- V7.1. -/
theorem test_tcpHeader :
    seen (·.listeners) (runMove (.tcpHeader 0 0 3) (withConn (.hdr []) [0#8, 1#8, 0#8, 0#8, 0#8, 6#8, 1#8, 3#8])) =
      some [⟨.run, [⟨.hdr [0#8, 1#8, 0#8], true, [], [0#8, 0#8, 6#8, 1#8, 3#8], false⟩]⟩] := by decide
/-- V7.2. -/
theorem test_tcpHeader_full :
    seen (·.listeners) (runMove (.tcpHeader 0 0 4) (withConn (.hdr [0#8, 1#8, 0#8]) [0#8, 0#8, 6#8, 1#8, 3#8])) =
      some [⟨.run, [⟨.body [0#8, 1#8, 0#8, 0#8, 0#8, 6#8, 1#8] 5 [], true, [], [3#8], false⟩]⟩] := by decide
/-- V7.3. -/
theorem test_tcpBody :
    seen (·.listeners) (runMove (.tcpBody 0 0 5) (withConn (.body [0#8, 1#8, 0#8, 0#8, 0#8, 6#8, 1#8] 5 []) [3#8, 0#8, 0#8, 0#8, 2#8])) =
      some [⟨.run, [⟨.body [0#8, 1#8, 0#8, 0#8, 0#8, 6#8, 1#8] 0 [3#8, 0#8, 0#8, 0#8, 2#8], true, [], [], false⟩]⟩] := by decide
/-- V7.4. -/
theorem test_tcpParse_move :
    seen (·.listeners) (runMove (.tcpParse 0 0) (withConn (.body [0#8, 1#8, 0#8, 0#8, 0#8, 6#8, 1#8] 0 [3#8, 0#8, 0#8, 0#8, 2#8]) [])) =
      some [⟨.run, [⟨.enq ⟨.tcp ⟨1#16, 0#16, 1#8, 3#8, [0#8, 0#8, 0#8, 2#8]⟩, .tcp 0 0⟩, true, [], [], false⟩]⟩] := by decide
/-- V7.6: a 7-byte packet. -/
theorem test_tcpParse_short :
    seen (·.listeners) (runMove (.tcpParse 0 0) (withConn (.body [0#8, 1#8, 0#8, 0#8, 0#8, 1#8, 1#8] 0 []) [])) =
      some [⟨.run, [⟨.closed, false, [], [], false⟩]⟩] := by decide
/-- V7.12. -/
theorem test_serialRead :
    seen (·.ports) (runMove (.serialRead 0 [0x01#8, 0x03#8, 0#8, 0#8, 0#8, 2#8, 0xC4#8, 0x0B#8]) (withPort .block)) =
      some [⟨.enq request, true, []⟩] := by decide
/-- V7.13. -/
theorem test_serialRead_bad :
    seen (·.ports) (runMove (.serialRead 0 [0x01#8, 0x03#8, 0#8, 0#8, 0#8, 2#8, 0xC4#8, 0x0C#8]) (withPort .block)) =
      some [⟨.check, true, []⟩] := by decide
/-- V7.17. -/
theorem test_acceptError :
    seen (·.listeners) (runMove (.acceptError 0 true) { State.reset with listeners := [⟨.run, []⟩] }) = some [⟨.error, []⟩] ∧
    seen (·.listeners) (runMove (.acceptError 0 true) { State.reset with listeners := [⟨.run, []⟩], close := true }) =
      some [⟨.closed, []⟩] := by decide
/-- P6 (b): the close arm with a request still queued. -/
theorem test_dispClose :
    seen (fun t => (t.dstate, t.queue)) (runMove .dispClose { State.reset with dstate := .idle, close := true, queue := [request] }) =
      some (.exit, [request]) := by decide

/-! The step. -/

/-- The first step after reset runs the placed word: an unknown function code is answered with IllegalFunction. -/
theorem test_step_word :
    shown (step (State.reset.withFetchWord 8 0x07)) = some (.handled [] 1#8 (.rtu ⟨0#8, 0x87#8, [1#8]⟩)) := by decide
/-- A faulted block takes no step (R254). -/
theorem test_step_faulted : step { State.reset with fault := some .crcUninitialised } = .fault (.halted .crcUninitialised) := by rfl

end Sys2Proof.Tests
end

