-- ==== Sys2Proof/Tests/Witnesses.lean ====
section
/-! SUPPORT. For every statement with hypotheses, a concrete state and operands that meet all of them together, at the bounds of their
ranges; where a statement has several clauses, one for each clause. -/

namespace Sys2Proof.Tests

open Sys2Proof.Machine

set_option maxRecDepth 8000

/-! Encoding. -/

theorem witness_DecodeOfEncode :
    (Instr.handle ⟨.rtu ⟨1#8, 3#8, []⟩, .tcp (2 ^ 32 - 1) (2 ^ 32 - 1)⟩).wf = true ∧
    (Instr.fnSet 0xFF#8 (some (.custom (2 ^ 32 - 1)))).wf = true ∧ (Instr.unknownFunction 0xFF#8 (.rtu 1#8) []).wf = true ∧
    (Instr.exceptionResponse (.rtu 1#8) 0x80#8 1#8).wf = true ∧ (Instr.reservedOpsel 0x48#8).wf = true := by decide

theorem witness_EncodeOfDecode :
    decode .command [0x05#8, 0xAA#8] = .ok (.reservedOpsel 0x05#8) ∧ decode .command [0x10#8, 1#8] = .ok (.bitsPack [true]) ∧
    decode pdu [0x2B#8] = .ok (.unknownFunction 0x2B#8 (.rtu 1#8) []) := by decide

theorem witness_ReservedSelectorIsRefused (op : Byte) (h : op ∈ [0x00#8, 0x05#8, 0x0F#8, 0x48#8, 0xFF#8]) :
    op.toNat ∉ [0x01, 0x02, 0x03, 0x04, 0x10, 0x11, 0x20, 0x21, 0x22, 0x23, 0x24, 0x25, 0x30, 0x31, 0x32, 0x33, 0x34, 0x35,
      0x40, 0x41, 0x42, 0x43, 0x44, 0x45, 0x46, 0x47] := by
  simp only [List.mem_cons, List.not_mem_nil, or_false] at h
  rcases h with rfl | rfl | rfl | rfl | rfl <;> decide

/-! CRC, bit codec, framers. -/

theorem witness_CrcInitAndUpdate :
    State.reset.crcLoaded = false ∧ { State.reset with crc := 0xFFFF#16, crcLoaded := true }.crcLoaded = true := by decide

theorem witness_CrcResidueIsZero : 2 ≤ [0xFF#8, 0xFF#8].length := by decide

theorem witness_BitCodecRoundTrips :
    (List.replicate 65535 true).length ≤ 65535 ∧
    ([0xFF#8, 0x01#8].length = ((9#16 : Word).toNat + 7) / 8 ∧
      ∀ i < 16, 9 ≤ i → Spec.bitOf [0xFF#8, 0x01#8] i = false) := by
  exact ⟨Nat.le_of_eq List.length_replicate, rfl, by decide⟩

theorem witness_SerializersLayOutTheFrame :
    (List.replicate 65533 0#8).length + 2 ≤ 65535 ∧ 65535 < (List.replicate 65534 0#8).length + 2 :=
  ⟨Nat.le_of_eq (congrArg (· + 2) List.length_replicate),
    Nat.lt_of_lt_of_eq (by decide : 65535 < 65534 + 2) (congrArg (· + 2) List.length_replicate).symm⟩

theorem witness_RtuFramerRoundTrips :
    shown (exec (.rtuParse [0x01#8, 0x07#8, 0x41#8, 0xE2#8]) State.reset) = some (.parsed (.ok (.rtu ⟨1#8, 7#8, []⟩))) := by decide

theorem witness_TcpFramerRoundTrips :
    (List.replicate 65533 0#8).length ≤ 65533 ∧
    (State.reset.cfg.tcpLengthCheck = .strict ∧
      shown (exec (.tcpParse [0#8, 1#8, 0#8, 0#8, 0#8, 2#8, 1#8, 3#8]) State.reset) =
        some (.parsed (.ok (.tcp ⟨1#16, 0#16, 1#8, 3#8, []⟩)))) ∧
    ((resetWith { Params.reference with tcpLengthCheck := .tolerant }).cfg.tcpLengthCheck = .tolerant ∧
      8 ≤ [0#8, 1#8, 0#8, 0#8, 0#8, 3#8, 1#8, 3#8].length ∧ [0#8, 1#8, 0#8, 0#8, 0#8, 3#8, 1#8, 3#8].length ≤ 65541 ∧
      (beWord [0#8, 1#8, 0#8, 0#8, 0#8, 3#8, 1#8, 3#8] 4).toNat ≠ [0#8, 1#8, 0#8, 0#8, 0#8, 3#8, 1#8, 3#8].length - 6) := by
  exact ⟨Nat.le_of_eq List.length_replicate, by decide, by decide⟩

/-! The register bank. -/

/-- The default bank of `filled` is canonical: the hypothesis of every statement about the default bank. -/
theorem witness_BankSingleWritesWriteOneEntry :
    (Bank.default ⟨[(1, true)], [], [(65535, 0xABCD#16)], []⟩).wf = true ∧ (Bank.default ⟨[], [], [], []⟩).wf = true := by decide

theorem witness_BankMultipleWritesWriteTheRangeOrNothing :
    (Bank.default ⟨[(1, true)], [], [(65535, 0xABCD#16)], []⟩).wf = true ∧
    (65536 < (65535#16 : Word).toNat + [true, true].length ∧ (65535#16 : Word).toNat + [true].length ≤ 65536) ∧
    (65536 < (65535#16 : Word).toNat + [1#16, 2#16].length ∧ (65535#16 : Word).toNat + [1#16].length ≤ 65536) := by decide

theorem witness_BankReadAfterWrite :
    (Bank.default ⟨[(1, true)], [], [(65535, 0xABCD#16)], []⟩).wf = true ∧
    (65534#16 : Word).toNat + [1#16, 2#16].length ≤ 65536 ∧
    ((65535#16 : Word).toNat = (65534#16 : Word).toNat + 1 ∧ 1 + (1#16 : Word).toNat ≤ [1#16, 2#16].length) := by decide

/-- A range at the end of the space, with two reads after the write; and the reads that R161 does not bind: of the other space, and from the
same start with another count. -/
theorem witness_EveryBankMeetsItsContract :
    (filled.bank.wf = true ∧ (Bank.custom 7 none).wf = true) ∧
    (∀ c ∈ [BankCall.readHoldingRegisters 0#16 1#16, .readCoils 0#16 65535#16], Spec.isRead c = true) ∧
    (65534#16 : Word).toNat + (2#16 : Word).toNat ≤ 65536 ∧ [true, false].length = (2#16 : Word).toNat ∧
    [1#16, 2#16].length = (2#16 : Word).toNat ∧ (1#16 : Word) ≠ 0#16 ∧
    (∀ bits, some (LastWrite.registers 0#16 [1#16]) = some (.coils 0#16 bits) → bits.length ≠ (1#16 : Word).toNat) ∧
    (∀ words, some (LastWrite.coils 0#16 [true]) = some (.registers 0#16 words) → words.length ≠ (1#16 : Word).toNat) ∧
    (∀ bits, some (LastWrite.coils 0#16 [true]) = some (.coils 0#16 bits) → bits.length ≠ (2#16 : Word).toNat) ∧
    ∀ words, some (LastWrite.registers 0#16 [1#16]) = some (.registers 0#16 words) → words.length ≠ (2#16 : Word).toNat := by
  refine ⟨by decide, by decide, by decide, by decide, by decide, by decide, fun _ h => ?_, fun _ h => ?_, fun _ h => ?_, fun _ h => ?_⟩ <;>
    cases h <;> decide

theorem witness_BankCommandsMakeTheirCall :
    State.reset.life = .config ∧ (State.construct .reference (.custom 7 none)).life = .config ∧ (withPort .check).life ≠ .config := by
  decide

/-! Requests. -/

/-- Before `start()`, with a slot filled and one empty; after it, with the request at the head of the queue, and with another there. -/
theorem witness_RequestsCompleteByTheirSlot :
    (Instr.readHoldingRegisters (.rtu 1#8) request.frame.data, 3#8) ∈ Spec.requests (.rtu 1#8) request.frame.data 7#8 ∧
    (State.reset.life = .config ∧ State.reset.slot 0x00#8 = none ∧ State.reset.slot 0xFF#8 = none) ∧
    (let s := { withPort (.wait request) with queue := [request] }
     s.life ≠ .config ∧ s.dstate = .idle ∧ s.queue = request :: [] ∧
     request.frame = Header.frame 3#8 request.frame.data (.rtu 1#8)) ∧
    ({ withPort .check with dstate := .exit }.dstate ≠ .idle ∧
      ∀ req ∈ { withPort .check with queue := [request] }.queue.head?, req.frame ≠ Header.frame 4#8 [] (.rtu 1#8)) := by
  decide

/-- The bounds of the two ranges, and a state with both requests in the queue: one register, written over RTU and read over TCP. -/
theorem witness_MasterReadsBackWhatItWrote :
    (State.reset.bank = .default ⟨[], [], [], []⟩ ∧ State.reset.bank.wf = true) ∧
    ((65411#16 : Word).toNat + (125#16 : Word).toNat ≤ 65536 ∧ 0 < (125#16 : Word).toNat ∧
      State.reset.slot 0x10#8 = some .stdWriteMultipleRegisters ∧ State.reset.slot 0x03#8 = some .stdReadHoldingRegisters ∧
      (125#16 : Word).toNat ≤ 125 ∧ (List.replicate 250 0xAB#8).length = 2 * (125#16 : Word).toNat) ∧
    ((65527#16 : Word).toNat + (9#16 : Word).toNat ≤ 65536 ∧ 0 < (9#16 : Word).toNat ∧
      State.reset.slot 0x0F#8 = some .stdWriteMultipleCoils ∧ State.reset.slot 0x01#8 = some .stdReadCoils ∧
      (9#16 : Word).toNat ≤ 2000 ∧ [0xFF#8, 0x01#8].length = ((9#16 : Word).toNat + 7) / 8 ∧
      ∀ i < 16, 9 ≤ i → Spec.bitOf [0xFF#8, 0x01#8] i = false) ∧
    (let s := { State.reset with
       life := .running, dstate := .idle
       queue := [⟨Header.frame 0x10#8 (be16 1#16 ++ be16 1#16 ++ 2#8 :: [0xAB#8, 0xCD#8]) (.rtu 1#8), .rtu 0⟩,
         ⟨Header.frame 0x03#8 (be16 1#16 ++ be16 1#16) (.tcp 7#16 0#16 1#8), .tcp 0 0⟩] }
     seen (·.dstate) (runMoves [.dispRequest, .dispWrite, .dispRequest] s) = some
       (.write [0#8, 7#8, 0#8, 0#8, 0#8, 5#8, 1#8, 3#8, 2#8, 0xAB#8, 0xCD#8] (.tcp 0 0))) := by
  refine ⟨by decide, ⟨by decide, by decide, by decide, by decide, by decide, List.length_replicate⟩, by decide, by decide⟩

theorem witness_StandardHandlersReturnOnlyZeroTwoThree : ∀ k, HandlerId.stdReadHoldingRegisters ≠ .custom k :=
  fun _ h => by cases h

/-- A payload of each kind, under the default count limits: one coil, one register, one write. -/
theorem witness_StandardPayloadSizes :
    Params.reference.countLimits = .enforceUpper ∧
    (runHandler .reference .stdReadCoils .zero (.rtu ⟨1#8, 1#8, [0xFF#8, 0xFF#8, 0#8, 1#8]⟩)).exc = 0#8 ∧
    (runHandler .reference .stdReadInputRegisters .zero (.rtu ⟨1#8, 4#8, [0#8, 0#8, 0#8, 1#8]⟩)).exc = 0#8 ∧
    (runHandler .reference .stdWriteSingleRegister .zero (.rtu ⟨1#8, 6#8, [0#8, 1#8, 0#8, 1#8]⟩)).exc = 0#8 := by decide

/-- A read that passes the end of the space, at the head of the queue. -/
theorem witness_ExceptionLeavesTheBlockAsItWas :
    let req : Request := ⟨.rtu ⟨1#8, 3#8, [0xFF#8, 0xFF#8, 0#8, 2#8]⟩, .rtu 0⟩
    let s := { filled with life := .running, dstate := .idle, queue := [req] }
    s.dstate = .idle ∧ s.queue = req :: [] ∧ s.bank = .default ⟨[(1, true)], [], [(65535, 0xABCD#16)], []⟩ ∧
    s.slot req.frame.function = some .stdReadHoldingRegisters ∧
    (runHandler s.cfg .stdReadHoldingRegisters s.bank req.frame).exc ≠ 0#8 := by decide

/-- The same request on TCP. -/
theorem witness_ExceptionLeavesTheBlockAsItWas_tcp :
    let req : Request := ⟨.tcp ⟨7#16, 0#16, 1#8, 3#8, [0xFF#8, 0xFF#8, 0#8, 2#8]⟩, .tcp 0 0⟩
    let s := { filled with life := .running, dstate := .idle, queue := [req] }
    s.dstate = .idle ∧ s.queue = req :: [] ∧ s.bank = .default ⟨[(1, true)], [], [(65535, 0xABCD#16)], []⟩ ∧
    s.slot req.frame.function = some .stdReadHoldingRegisters ∧
    (runHandler s.cfg .stdReadHoldingRegisters s.bank req.frame).exc ≠ 0#8 := by decide

/-! Steps. -/

/-- A step from a state with the default bank: the write of a coil. -/
theorem witness_ReadOnlySpacesNeverChange :
    ∃ t, step { filled with inputs := [.message .command [0x44#8, 0#8, 5#8, 1#8]] } = .next t := ⟨_, rfl⟩

theorem witness_FunctionTableOperations :
    State.reset.life = .config ∧ { State.reset with life := .stopped }.life ≠ .config ∧
    (let s := { withPort (.wait request) with queue := [request] }
     s.dstate = .idle ∧ s.queue = request :: [] ∧ ∀ req ∈ s.queue.head?, req.frame.function ≠ 4#8) := by decide

/-- A step that sets a slot. -/
theorem witness_ConfigurationWrittenOnlyByFnSet :
    ∃ t, step { State.reset with inputs := [.message .command [0x33#8, 0x03#8, 0x00#8]] } = .next t ∧ t.slot 3#8 = none :=
  ⟨_, rfl, by decide⟩

/-- A step of each kind: the dispatcher takes the head of the queue, and a reader pushes. -/
theorem witness_OnlyTheDispatcherReachesBankAndQueue :
    seen (·.queue) (step { withPort (.wait request) with queue := [request], inputs := [.move .dispRequest] }) = some [] ∧
    seen (·.queue) (step { withPort (.enq request) with inputs := [.move (.push (.rtu 0))] }) = some [request] := by decide

/-- HANDLE before `start()`; after it, at the head of the queue, and not there. -/
theorem witness_HandleServesTheRequest :
    State.reset.life = .config ∧
    (let s := { withPort (.wait request) with queue := [request] }
     s.life ≠ .config ∧ s.dstate = .idle ∧ s.queue = request :: []) ∧
    ((withPort .check).life ≠ .config ∧ (withPort .check).queue.head? ≠ some request) := by decide

theorem witness_DispatcherSelects :
    (let s := { State.reset with life := .running }; s.dstate = .off ∧ s.life = .running) ∧
    (let s := { State.reset with dstate := .idle, queue := [request] }; s.dstate = .idle ∧ s.queue = request :: []) ∧
    (let s := { State.reset with dstate := .idle, close := true }; s.dstate = .idle ∧ s.close = true) ∧
    (let s := { State.reset with dstate := .idle }; s.dstate = .idle ∧ s.queue = [] ∧ s.close = false) ∧
    { State.reset with dstate := .exit }.dstate = .exit := by decide

theorem witness_RouteWritesToItsOwnSourceOnly :
    { withPort (.wait request) with dstate := .write [0xAA#8] (.rtu 0) }.dstate = .write [0xAA#8] (.rtu 0) ∧
    (withPort (.wait request)).dstate ≠ .write [0xAA#8] (.rtu 0) := by decide

/-- A step that writes a response to the source of its request. -/
theorem witness_OutputReachesOnlyTheRequestingSource :
    ∃ t, step { withPort (.wait request) with dstate := .write [0xAA#8] (.rtu 0), inputs := [.move .dispWrite] } = .next t ∧
      t.outOf (.rtu 0) = [[0xAA#8]] := ⟨_, rfl, by decide⟩

/-- The four cases of an enqueue step: space or none, close or not, the queue holding one request; no reader that holds
it; a reader that waits, on close and
without it; and a port that never started, on close. -/
theorem witness_EnqueueAndWaitEndSteps :
    let one := { withPort (.enq request) with cfg := { Params.reference with channelDepth := 1 } }
    let full := { one with queue := [request] }
    (one.parsedRequest request.sink = some request ∧ one.queue.length < one.cfg.channelDepth ∧ one.close = false) ∧
    (full.parsedRequest request.sink = some request ∧ ¬ full.queue.length < full.cfg.channelDepth ∧ full.close = false) ∧
    ({ one with close := true }.parsedRequest request.sink = some request ∧ { one with close := true }.close = true) ∧
    ({ full with close := true }.parsedRequest request.sink = some request ∧
      ¬ { full with close := true }.queue.length < { full with close := true }.cfg.channelDepth) ∧
    ((withPort .check).parsedRequest request.sink ≠ some request ∧ (withPort (.wait request)).parsedRequest request.sink ≠ some request) ∧
    ({ withPort (.wait request) with close := true }.awaited (.rtu 0) = some request ∧
      { withPort (.wait request) with close := true }.close = true) ∧
    ({ withConn (.wait ⟨request.frame, .tcp 0 0⟩) [] with close := true }.awaited (.tcp 0 0) = some ⟨request.frame, .tcp 0 0⟩) ∧
    ((withPort .check).awaited (.rtu 0) = none ∧ (withPort (.wait request)).close = false) ∧
    ({ withPort .off with close := true }.port? 0 = some ⟨.off, true, []⟩ ∧ { withPort .off with close := true }.close = true) := by
  decide

/-! Readers and accept units. -/

theorem witness_TcpReaderReadsAndParses :
    ((withConn (.hdr []) [0#8, 1#8, 0#8, 0#8, 0#8, 0#8, 1#8]).conn? 0 0 = some ⟨.hdr [], true, [], [0#8, 1#8, 0#8, 0#8, 0#8, 0#8, 1#8], false⟩ ∧
      7 ≤ min (7 - ([] : List Byte).length) [0#8, 1#8, 0#8, 0#8, 0#8, 0#8, 1#8].length) ∧
    ((withConn (.body [0#8, 1#8, 0#8, 0#8, 0#8, 2#8, 1#8] 1 []) [3#8]).conn? 0 0 =
      some ⟨.body [0#8, 1#8, 0#8, 0#8, 0#8, 2#8, 1#8] 1 [], true, [], [3#8], false⟩ ∧ 1 ≤ min 1 [3#8].length) ∧
    (withConn (.body [0#8, 1#8, 0#8, 0#8, 0#8, 2#8, 1#8] 0 [3#8]) []).conn? 0 0 =
      some ⟨.body [0#8, 1#8, 0#8, 0#8, 0#8, 2#8, 1#8] 0 [3#8], true, [], [], false⟩ := by decide

/-- A frame of 8 bytes read in three reads, with one byte of the next frame behind it. -/
theorem witness_TcpReaderTakesExactlyOneFrame :
    (withConn (.hdr []) [0#8, 1#8, 0#8, 0#8, 0#8, 2#8, 1#8, 3#8, 0#8]).conn? 0 0 =
      some ⟨.hdr [], true, [], [0#8, 1#8, 0#8, 0#8, 0#8, 2#8, 1#8, 3#8, 0#8], false⟩ ∧
    seen (fun t => t.conn? 0 0) (runMoves
      ([(true, 3), (true, 4), (false, 1)].map fun r : Bool × Nat => if r.1 then .tcpHeader 0 0 r.2 else .tcpBody 0 0 r.2)
      (withConn (.hdr []) [0#8, 1#8, 0#8, 0#8, 0#8, 2#8, 1#8, 3#8, 0#8])) =
    some (some ⟨.body [0#8, 1#8, 0#8, 0#8, 0#8, 2#8, 1#8] 0 [3#8], true, [], [0#8], false⟩) := by decide

theorem witness_TcpReaderEnds :
    (withConn (.hdr [0#8]) []).conn? 0 0 = some ⟨.hdr [0#8], true, [], [], false⟩ ∧
    (withConn (.hdr [0#8]) []).close = false ∧ { withConn (.hdr [0#8]) [] with close := true }.close = true ∧
    (withConn (.body [0#8, 1#8, 0#8, 0#8, 0#8, 3#8, 1#8] 1 [3#8]) []).conn? 0 0 =
      some ⟨.body [0#8, 1#8, 0#8, 0#8, 0#8, 3#8, 1#8] 1 [3#8], true, [], [], false⟩ ∧
    (let c : Conn := ⟨.body [0#8, 1#8, 0#8, 0#8, 0#8, 3#8, 1#8] 1 [3#8], true, [], [], true⟩
     { State.reset with listeners := [⟨.run, [c]⟩] }.conn? 0 0 = some c ∧ c.inp = [] ∧ c.eof = true) ∧
    (withConn .closed []).conn? 0 0 = some ⟨.closed, true, [], [], false⟩ := by decide

theorem witness_RtuReaderSteps :
    ((withPort .off).port? 0 = some ⟨.off, true, []⟩ ∧ (withPort .off).life = .running) ∧
    ((withPort .check).port? 0 = some ⟨.check, true, []⟩ ∧ (withPort .check).close = false ∧
      { withPort .check with close := true }.port? 0 = some ⟨.check, true, []⟩) ∧
    ((withPort .block).port? 0 = some ⟨.block, true, []⟩ ∧ (List.replicate 512 0#8).length ≤ 512 ∧
      ([] : List Byte).length ≤ 512) := by
  exact ⟨by decide, by decide, by decide, Nat.le_of_eq List.length_replicate, by decide⟩

/-- The three outcomes of a reader that waits: bytes arrive, its response is routed, the close signal ends it. -/
theorem witness_WaitingReaderReadsNoByte :
    (withConn (.wait request) [7#8]).conn? 0 0 = some ⟨.wait request, true, [], [7#8], false⟩ ∧
    seen (fun t => t.conn? 0 0) (step { withConn (.wait request) [7#8] with inputs := [.move (.send 0 0 [8#8])] }) =
      some (some ⟨.wait request, true, [], [7#8, 8#8], false⟩) ∧
    seen (fun t => t.conn? 0 0)
      (step { withConn (.wait request) [7#8] with dstate := .write [1#8] (.tcp 0 0), inputs := [.move .dispWrite] }) =
      some (some ⟨.hdr [], true, [[1#8]], [7#8], false⟩) ∧
    seen (fun t => t.conn? 0 0)
      (step { withConn (.wait request) [7#8] with close := true, inputs := [.move (.leaveWait (.tcp 0 0))] }) =
      some (some ⟨.closed, false, [], [], false⟩) ∧
    (withPort (.wait request)).port? 0 = some ⟨.wait request, true, []⟩ ∧
    seen (fun t => t.port? 0) (step { withPort (.wait request) with dstate := .write [1#8] (.rtu 0), inputs := [.move .dispWrite] }) =
      some (some ⟨.check, true, [[1#8]]⟩) ∧
    seen (fun t => t.port? 0) (step { withPort (.wait request) with close := true, inputs := [.move (.leaveWait (.rtu 0))] }) =
      some (some ⟨.closed, false, []⟩) := by decide

/-- A state with one closed port, its response still being written. -/
def closedPort : State :=
  { State.reset with
    life := .shutdown, close := true, dstate := .write [1#8] (.rtu 0), ports := [⟨.closed, false, []⟩], inputs := [.move .dispWrite] }

theorem witness_ClosedSourcesStayClosed :
    closedPort.SourcesWf ∧ (∃ t, step closedPort = .next t) ∧ closedPort.sourceClosed (.rtu 0) = true := by
  refine ⟨⟨fun l n c h => ?_, fun p sp h => ?_⟩, ⟨_, rfl⟩, by decide⟩
  · simp [closedPort, State.conn?, State.listener?, State.reset, State.construct] at h
  · cases p with
    | zero =>
      simp only [closedPort, State.port?, List.getElem?_cons_zero, Option.some.injEq] at h
      subst h; constructor <;> simp [RtuReader.wf]
    | succ p => simp [closedPort, State.port?] at h

theorem witness_AcceptUnitSteps :
    (let s := { State.reset with listeners := [⟨.run, []⟩], cfg := { Params.reference with maxConnections := some 1 } }
     s.listeners[0]? = some ⟨.run, []⟩ ∧ s.cfg.maxConnections = some 1 ∧ s.openConnections < 1) ∧
    (let s := { State.reset with listeners := [⟨.run, [Conn.fresh]⟩], cfg := { Params.reference with maxConnections := some 1 } }
     s.listeners[0]? = some ⟨.run, [Conn.fresh]⟩ ∧ s.cfg.maxConnections = some 1 ∧ 1 ≤ s.openConnections) ∧
    (let s := { State.reset with life := .running, listeners := [⟨.off, []⟩] }
     s.listeners[0]? = some ⟨.off, []⟩ ∧ s.life = .running) ∧
    { State.reset with listeners := [⟨.pause, []⟩] }.listeners[0]? = some ⟨.pause, []⟩ ∧
    { State.reset with listeners := [⟨.closed, []⟩] }.listeners[0]? = some ⟨.closed, []⟩ ∧
    { State.reset with listeners := [⟨.error, []⟩] }.listeners[0]? = some ⟨.error, []⟩ := by decide

/-! Invariants. -/

/-- A state with a port whose request is in the queue and awaited, before the dispatcher takes it. -/
def queued : State :=
  { withPort (.wait request) with queue := [request], inputs := [.move .dispRequest] }

theorem queued_sourcesWf : queued.SourcesWf := by
  refine ⟨fun l n c h => ?_, fun p sp h => ?_⟩
  · simp [queued, withPort, State.conn?, State.listener?, State.reset, State.construct] at h
  · cases p with
    | zero =>
      simp only [queued, withPort, State.port?, List.getElem?_cons_zero, Option.some.injEq] at h
      subst h
      exact ⟨⟨rfl, _, rfl, by decide⟩, by simp⟩
    | succ p => simp [queued, withPort, State.port?] at h

theorem queued_oneOutstanding : queued.OneOutstanding where
  once sink := by
    have h : queued.outstanding sink = if request.sink = sink then 1 else 0 := by
      by_cases hs : request.sink = sink <;> simp [State.outstanding, queued, withPort, hs]
    rw [h]; split <;> decide
  queued r h := by
    have : r = request := by simpa [queued] using h
    subst this; exact .inl (by decide)
  writing b k h := by cases h
  live _ r h := by
    have : r = request := by simpa [queued] using h
    subst this; decide
  bounded := by decide

theorem queued_lifecycleWf : queued.LifecycleWf where
  closeIff := by decide
  config h := by cases h
  exited h := by cases h
  stopped h := by cases h

theorem witness_StepKeepsBankCanonical : (∃ t, step queued = .next t) ∧ queued.bank.wf = true := ⟨⟨_, rfl⟩, by decide⟩
theorem witness_StepKeepsSourcesSound : (∃ t, step queued = .next t) ∧ queued.SourcesWf := ⟨⟨_, rfl⟩, queued_sourcesWf⟩
theorem witness_OneOutstandingRequestPerSource :
    (∃ t, step queued = .next t) ∧ queued.SourcesWf ∧ queued.OneOutstanding ∧ queued.close = false ∧
    queued.queue.length = 1 ∧ queued.openSources = 1 :=
  ⟨⟨_, rfl⟩, queued_sourcesWf, queued_oneOutstanding, by decide, by decide, by decide⟩
theorem witness_StepKeepsLifecyclePromises : (∃ t, step queued = .next t) ∧ queued.LifecycleWf := ⟨⟨_, rfl⟩, queued_lifecycleWf⟩
theorem witness_ResetIsSound : Bank.zero.wf = true ∧ (Bank.custom 7 none).wf = true := by decide

/-! Lifecycle, faults and the step. -/

theorem witness_LifecycleCalls : State.reset.life = .config ∧ { State.reset with life := .stopped }.life ≠ .config := by decide

theorem witness_ShutdownCallAndCompletion :
    (withPort .check).life = .running ∧ State.reset.life ≠ .running ∧
    (closedPort.life = .shutdown ∧ (∀ li ∈ closedPort.listeners, ∀ c ∈ li.conns, c.rstate = .closed) ∧
      ∀ sp ∈ closedPort.ports, sp.rstate = .closed) ∧
    (∃ sp ∈ { closedPort with ports := [⟨.block, true, []⟩] }.ports, sp.rstate ≠ .closed) := by
  refine ⟨by decide, by decide, by decide, ⟨_, List.mem_singleton.2 rfl, by decide⟩⟩

/-- The `shutdown()` call as a step. -/
theorem witness_CloseSignalSetOnlyByShutdown :
    seen (fun t => (t.close, t.life)) (step { withPort .check with inputs := [.message .command [0x34#8]] }) = some (true, .shutdown) := by
  decide

/-- A blocked port, a port that never started, and a connection in the middle of a frame, during shutdown. -/
theorem witness_ShutdownCanComplete :
    let s := { withPort .block with
      life := .shutdown, close := true, ports := [⟨.block, true, []⟩, ⟨.off, true, []⟩]
      listeners := [⟨.run, [⟨.hdr [0#8], true, [], [], false⟩]⟩] }
    s.fault = none ∧ s.life = .shutdown ∧ s.close = true := by decide

/-- A step that raises a fault, and a faulted state. -/
theorem witness_FaultsArePreciseAndFinal :
    seen (·.fault) (step { State.reset with inputs := [.message .command [0x02#8, 0x01#8]] }) = some (some .crcUninitialised) ∧
    { State.reset with fault := some .tcpResponseTooLong }.fault = some .tcpResponseTooLong := by decide

/-- The second cause, for any Data that is too long. -/
theorem witness_OnlyTheListedCausesRaiseFaults (d : List Byte) (h : d.length = 65534) :
    seen (·.fault) (step { State.reset with inputs := [.message .command (0x23#8 :: ([0#8, 1#8, 0#8, 0#8, 1#8, 3#8] ++ d))] }) =
      some (some .tcpResponseTooLong) := by
  exact test_tcpSerialize_faults d h

theorem witness_StepRunsTheDecodedInstruction :
    State.reset.fault = none ∧ State.reset.inputs = [] ∧ decodeTableWord 8 0x34 = some .close ∧
    decode .command [0x34#8] = .ok .close ∧
    { State.reset with inputs := [.message .command [0x34#8], .move .start] }.inputs =
      .message .command [0x34#8] :: [.move .start] := by decide

/-- Two states that differ only in a stale CRC register. -/
theorem witness_StaleCrcIsNotObservable : Spec.SameButStaleCrc State.reset { State.reset with crc := 0x1234#16 } :=
  .inr ⟨rfl, rfl⟩

end Sys2Proof.Tests
end

section
/-! O60 (R22, R255). A step of a block whose CRC register is stale, nothing having written it since reset, neither reads the
register nor changes what else it does with it: said once for each shared operation, then of every instruction and move. A lemma
named `<operation>_stale` says that the operation answers alike for the values that a stale register may hold. -/

namespace Sys2Proof.Machine

open Spec

/-- The state with another value in the CRC register and nothing else changed. -/
def State.withCrc (v : Word) (s : State) : State := { s with crc := v }

variable {s : State} {v : Word}

@[simp] theorem State.withCrc_crcLoaded (v : Word) (s : State) : (s.withCrc v).crcLoaded = s.crcLoaded := rfl
@[simp] theorem State.withCrc_life (v : Word) (s : State) : (s.withCrc v).life = s.life := rfl
@[simp] theorem State.withCrc_dstate (v : Word) (s : State) : (s.withCrc v).dstate = s.dstate := rfl
@[simp] theorem State.withCrc_fault (v : Word) (s : State) : (s.withCrc v).fault = s.fault := rfl
@[simp] theorem State.withCrc_draws (v : Word) (s : State) : (s.withCrc v).draws = s.draws := rfl
@[simp] theorem State.withCrc_nextRequest (v : Word) (s : State) : (s.withCrc v).nextRequest = s.nextRequest := rfl
@[simp] theorem State.withCrc_parsedRequest (v : Word) (s : State) (k : SinkId) :
    (s.withCrc v).parsedRequest k = s.parsedRequest k := rfl
@[simp] theorem handlerResult_withCrc (v : Word) (s : State) (f : Frame) :
    handlerResult (s.withCrc v) f = handlerResult s f := rfl

theorem sameButStaleCrc_iff {t : State} : SameButStaleCrc s t ↔ s = t ∨ s.crcLoaded = false ∧ ∃ v, t = s.withCrc v :=
  or_congr_right (and_congr_right fun _ => ⟨fun h => ⟨t.crc, h⟩, fun ⟨_, h⟩ => by rw [h]; rfl⟩)

theorem sameButStaleCrc_withCrc (hs : s.crcLoaded = false) (v : Word) : SameButStaleCrc s (s.withCrc v) := .inr ⟨hs, rfl⟩

theorem sameButStaleCrc_of_eq {t : State} (hs : s.crcLoaded = false) (ht : t = s.withCrc v) : SameButStaleCrc s t :=
  ht ▸ sameButStaleCrc_withCrc hs v

/-- An update that answers alike for every value of a stale register keeps states alike. -/
theorem sameButStaleCrc_map {f : State → State} (hf : ∀ s v, s.crcLoaded = false → SameButStaleCrc (f s) (f (s.withCrc v)))
    {t : State} (h : SameButStaleCrc s t) : SameButStaleCrc (f s) (f t) := by
  rcases sameButStaleCrc_iff.1 h with rfl | ⟨hs, v, rfl⟩
  · exact .inl rfl
  · exact hf s v hs

theorem report_stale {t : State} (h : SameButStaleCrc s t) (r : Result) : SameButStaleCrc (s.report r) (t.report r) :=
  sameButStaleCrc_map (f := State.report r) (fun _ _ hs => .inr ⟨hs, rfl⟩) h

theorem countDraw_stale {t : State} (h : SameButStaleCrc s t) : SameButStaleCrc s.countDraw t.countDraw :=
  sameButStaleCrc_map (f := State.countDraw) (fun _ _ hs => .inr ⟨hs, rfl⟩) h

/-- RTU_PARSE loads the register or leaves it alone. -/
theorem afterRtuParse_stale {t : State} (h : SameButStaleCrc s t) (b : List Byte) :
    SameButStaleCrc (s.afterRtuParse b) (t.afterRtuParse b) := by
  refine sameButStaleCrc_map (f := State.afterRtuParse b) (fun s v hs => ?_) h
  unfold State.afterRtuParse
  split
  · exact sameButStaleCrc_withCrc hs v
  · exact .inl rfl

theorem sameOutcome_refl (o : Out) : SameOutcome o o := by
  cases o with
  | next s => exact .inl rfl
  | fault f => rfl
  | refused r => rfl

theorem sameOutcome_ite {p : Prop} [Decidable p] {a a' b b' : Out} (ha : SameOutcome a a') (hb : SameOutcome b b') :
    SameOutcome (if p then a else b) (if p then a' else b') := by
  split
  · exact ha
  · exact hb

/-! The operations on the sources commute with a change of the register. -/

theorem State.setConn_withCrc (s : State) (v : Word) (l n : Nat) (c : Conn) :
    (s.withCrc v).setConn l n c = (s.setConn l n c).withCrc v := by
  change (match s.listener? l with | some li => _ | none => _) = _
  unfold State.setConn
  cases s.listener? l <;> rfl

theorem State.updateConn_withCrc (s : State) (v : Word) (l n : Nat) (f : Conn → Conn) :
    (match (s.withCrc v).conn? l n with
      | some c => (s.withCrc v).setConn l n (f c)
      | none   => s.withCrc v) =
    (match s.conn? l n with
      | some c => s.setConn l n (f c)
      | none   => s).withCrc v := by
  change (match s.conn? l n with | some c => _ | none => _) = _
  cases s.conn? l n with
  | none => rfl
  | some c => exact s.setConn_withCrc v l n (f c)

theorem State.updatePort_withCrc (s : State) (v : Word) (p : Nat) (f : SerialPort → SerialPort) :
    (match (s.withCrc v).port? p with
      | some sp => (s.withCrc v).setPort p (f sp)
      | none    => s.withCrc v) =
    (match s.port? p with
      | some sp => s.setPort p (f sp)
      | none    => s).withCrc v := by
  change (match s.port? p with | some sp => _ | none => _) = _
  cases s.port? p <;> rfl

theorem State.writeBack_withCrc (s : State) (v : Word) (b : List Byte) (k : SinkId) :
    (s.withCrc v).writeBack b k = (s.writeBack b k).withCrc v := by
  cases k with
  | tcp l n => exact s.updateConn_withCrc v l n fun c => (c.deliver b).release
  | rtu p => exact s.updatePort_withCrc v p fun sp => (sp.deliver b).release

theorem State.startWait_withCrc (s : State) (v : Word) (k : SinkId) (req : Request) :
    (s.withCrc v).startWait k req = (s.startWait k req).withCrc v := by
  cases k with
  | tcp l n => exact s.updateConn_withCrc v l n fun c => { c with rstate := .wait req }
  | rtu p => exact s.updatePort_withCrc v p fun sp => { sp with rstate := .wait req }

theorem State.closeSource_withCrc (s : State) (v : Word) (k : SinkId) :
    (s.withCrc v).closeSource k = (s.closeSource k).withCrc v := by
  cases k with
  | tcp l n => exact s.updateConn_withCrc v l n Conn.teardown
  | rtu p => exact s.updatePort_withCrc v p SerialPort.shut

theorem routeResponse_withCrc (s : State) (v : Word) (b : List Byte) (k : SinkId) :
    routeResponse b k (s.withCrc v) = (routeResponse b k s).withCrc v := by
  unfold routeResponse; rw [State.writeBack_withCrc]; rfl

/-! The agents' steps, enabled or not: both states take the same step or both wait. -/

/-- Two answers of a step that is `none` where it is not enabled: both `none`, or next states that differ at most in a stale
CRC register. -/
abbrev SameStep : Option State → Option State → Prop := Option.Rel SameButStaleCrc

theorem sameOutcome_orWait (hs : s.crcLoaded = false) {o o' : Option State} (h : SameStep o o') :
    SameOutcome (orWait s o) (orWait (s.withCrc v) o') := by
  cases h with
  | some h => exact h
  | none => exact sameButStaleCrc_withCrc hs v

theorem sameStep_ite {p : Prop} [Decidable p] {t t' : State} (h : SameButStaleCrc t t') :
    SameStep (if p then some t else none) (if p then some t' else none) := by
  split
  · exact .some h
  · exact .none

theorem sameStep_bind {α : Type} (o : Option α) {f f' : α → Option State} (h : ∀ a, SameStep (f a) (f' a)) :
    SameStep (o.bind f) (o.bind f') := by
  cases o with
  | none => exact .none
  | some a => exact h a

theorem sameStep_map {α : Type} (o : Option α) {f f' : α → State} (h : ∀ a, SameButStaleCrc (f a) (f' a)) :
    SameStep (o.map f) (o.map f') := by
  cases o with
  | none => exact .none
  | some a => exact .some (h a)

theorem onConn_stale (hs : s.crcLoaded = false) (v : Word) (l n : Nat) (f : Conn → Option Conn) :
    SameStep (s.onConn l n f) ((s.withCrc v).onConn l n f) :=
  sameStep_bind (s.conn? l n) fun c => sameStep_map (f c) fun c' =>
    sameButStaleCrc_of_eq (by simpa using hs) (s.setConn_withCrc v l n c')

theorem onPort_stale (hs : s.crcLoaded = false) (v : Word) (p : Nat) (f : SerialPort → Option SerialPort) :
    SameStep (s.onPort p f) ((s.withCrc v).onPort p f) :=
  sameStep_bind (s.port? p) fun sp => sameStep_map (f sp) fun _ => .inr ⟨hs, rfl⟩

theorem onAcc_stale (hs : s.crcLoaded = false) (v : Word) (l : Nat) (f : AccState → Option AccState) :
    SameStep (s.onAcc l f) ((s.withCrc v).onAcc l f) :=
  sameStep_bind (s.listener? l) fun li => sameStep_map (f li.acc) fun _ => .inr ⟨hs, rfl⟩

theorem acceptConnection_stale (hs : s.crcLoaded = false) (v : Word) (l : Nat) :
    SameStep (acceptConnection l s) (acceptConnection l (s.withCrc v)) :=
  sameStep_bind (s.listener? l) fun _ => sameStep_ite (.inr ⟨hs, rfl⟩)

theorem pushRequest_stale (hs : s.crcLoaded = false) (v : Word) (k : SinkId) :
    SameStep (pushRequest k s) (pushRequest k (s.withCrc v)) := by
  unfold pushRequest
  rw [State.withCrc_parsedRequest]
  cases s.parsedRequest k with
  | none => exact .none
  | some req =>
    exact sameStep_ite (sameButStaleCrc_of_eq (by simpa using hs) ((s.setQueue (s.queue ++ [req])).startWait_withCrc v k req))

theorem closeSource_stale (hs : s.crcLoaded = false) (v : Word) (k : SinkId) :
    SameButStaleCrc (s.closeSource k) ((s.withCrc v).closeSource k) :=
  sameButStaleCrc_of_eq (by simpa using hs) (s.closeSource_withCrc v k)

theorem abandonRequest_stale (hs : s.crcLoaded = false) (v : Word) (k : SinkId) :
    SameStep (abandonRequest k s) (abandonRequest k (s.withCrc v)) :=
  sameStep_ite (closeSource_stale hs v k)

theorem leaveWait_stale (hs : s.crcLoaded = false) (v : Word) (k : SinkId) :
    SameStep (leaveWait k s) (leaveWait k (s.withCrc v)) :=
  sameStep_ite (closeSource_stale hs v k)

theorem enqueueStep_stale (hs : s.crcLoaded = false) (v : Word) (first : Bool) (k : SinkId) :
    SameStep (enqueueStep first k s) (enqueueStep first k (s.withCrc v)) := by
  unfold enqueueStep
  have hpush := pushRequest_stale hs v k
  have habandon := abandonRequest_stale hs v k
  generalize pushRequest k s = p, pushRequest k (s.withCrc v) = p' at hpush ⊢
  generalize abandonRequest k s = a, abandonRequest k (s.withCrc v) = a' at habandon ⊢
  cases hpush with
  | none => cases habandon with
    | none => exact .none
    | some hd => exact .some hd
  | some hp => cases habandon with
    | none => exact .some hp
    | some hd => cases first with
      | true => exact .some hp
      | false => exact .some hd

theorem routeResponse_stale (hs : s.crcLoaded = false) (v : Word) (b : List Byte) (k : SinkId) :
    SameButStaleCrc (routeResponse b k s) (routeResponse b k (s.withCrc v)) :=
  sameButStaleCrc_of_eq (by simpa [routeResponse] using hs) (routeResponse_withCrc s v b k)

theorem dispWrite_stale (hs : s.crcLoaded = false) (v : Word) : SameStep (dispWrite s) (dispWrite (s.withCrc v)) := by
  unfold dispWrite
  rw [State.withCrc_dstate]
  cases s.dstate with
  | write b k => exact .some (routeResponse_stale hs v b k)
  | off | idle | exit => exact .none

theorem serialRead_stale (hs : s.crcLoaded = false) (v : Word) (p : Nat) (chunk : List Byte) :
    SameStep (serialRead p chunk s) (serialRead p chunk (s.withCrc v)) := by
  unfold serialRead
  have h := onPort_stale hs v p (SerialPort.readChunk (.rtu p) chunk)
  generalize s.onPort p _ = o, (s.withCrc v).onPort p _ = o' at h ⊢
  cases h with
  | none => exact .none
  | some h => exact .some (afterRtuParse_stale h chunk)

/-! Serving a request. -/

/-- Serializing a frame does the same to every state: it fails, or it loads the CRC register, or it leaves the state. -/
theorem serialize_uniform (f : Frame) :
    (∀ u : State, serialize f u = none) ∨
    ∃ b, (∃ c, ∀ u : State, serialize f u = some (b, u.loadCrc c)) ∨ ∀ u : State, serialize f u = some (b, u) := by
  cases f with
  | rtu f => exact .inr ⟨_, .inl ⟨_, fun _ => rfl⟩⟩
  | tcp f =>
    cases hf : serializeTcp f with
    | none => exact .inl fun u => by simp [serialize, hf]
    | some b => exact .inr ⟨b, .inr fun u => by simp [serialize, hf]⟩

/-- Two ends of HANDLE or of the request arm: the same fault, or the same response bytes and states that differ at most in a
stale CRC register. -/
inductive SameServed : Except BlockFault (List Byte × State) → Except BlockFault (List Byte × State) → Prop
  | error (f : BlockFault) : SameServed (.error f) (.error f)
  | ok (b : List Byte) {s t : State} (h : SameButStaleCrc s t) : SameServed (.ok (b, s)) (.ok (b, t))

theorem handleRequest_stale (hs : s.crcLoaded = false) (v : Word) (req : Request) :
    SameServed (handleRequest req s) (handleRequest req (s.withCrc v)) := by
  simp only [handleRequest, handlerResult_withCrc]
  generalize handlerResult s req.frame = r
  rcases serialize_uniform (buildResponse req.frame r.payload r.exc) with h | ⟨b, ⟨c, h⟩ | h⟩ <;> simp only [h]
  · exact .error _
  · exact .ok b (.inl rfl)
  · exact .ok b (.inr ⟨hs, rfl⟩)

theorem takeRequest_stale (hs : s.crcLoaded = false) (v : Word) (req : Request) (rest : List Request) :
    SameServed (takeRequest req rest s) (takeRequest req rest (s.withCrc v)) := by
  have h := handleRequest_stale hs v req
  unfold takeRequest
  generalize handleRequest req s = o, handleRequest req (s.withCrc v) = o' at h ⊢
  cases h with
  | error f => exact .error f
  | ok b h =>
    exact .ok b (sameButStaleCrc_map (f := fun u => (u.setQueue rest).setDispatcher (.write b req.sink))
      (fun _ _ hs => .inr ⟨hs, rfl⟩) h)

theorem dispRequest_stale (hs : s.crcLoaded = false) (v : Word) : SameStep (dispRequest s) (dispRequest (s.withCrc v)) := by
  unfold dispRequest
  rw [State.withCrc_nextRequest]
  cases s.nextRequest with
  | none => exact .none
  | some r =>
    have h := takeRequest_stale hs v r.1 r.2
    simp only
    generalize takeRequest r.1 r.2 s = o, takeRequest r.1 r.2 (s.withCrc v) = o' at h ⊢
    cases h with
    | error f => exact .some (.inr ⟨hs, rfl⟩)
    | ok b h => exact .some h

theorem asDispatcher_stale (hs : s.crcLoaded = false) (v : Word) (wanted : Request → Bool) (shown : List Byte → Result) :
    SameOutcome (asDispatcher wanted shown s) (asDispatcher wanted shown (s.withCrc v)) := by
  unfold asDispatcher
  rw [State.withCrc_nextRequest]
  cases s.nextRequest with
  | none => exact .inr ⟨hs, rfl⟩
  | some r =>
    have h := takeRequest_stale hs v r.1 r.2
    simp only
    generalize takeRequest r.1 r.2 s = o, takeRequest r.1 r.2 (s.withCrc v) = o' at h ⊢
    split
    · cases h with
      | error f => exact .inr ⟨hs, rfl⟩
      | ok b h => exact report_stale h _
    · exact .inr ⟨hs, rfl⟩

/-! Every instruction, move and step. -/

theorem beforeStart_stale (hs : s.crcLoaded = false) (v : Word) (b : Bank) (r : Result) :
    SameOutcome (beforeStart ((s.setBank b).report r) s) (beforeStart (((s.withCrc v).setBank b).report r) (s.withCrc v)) := by
  unfold beforeStart
  rw [State.withCrc_life]
  split <;> exact .inr ⟨hs, rfl⟩

theorem serveFrame_stale (hs : s.crcLoaded = false) (v : Word) (f : Frame) :
    SameOutcome (serveFrame f s) (serveFrame f (s.withCrc v)) :=
  sameOutcome_ite (.inr ⟨hs, rfl⟩) (asDispatcher_stale hs v _ _)

theorem execHandle_stale (hs : s.crcLoaded = false) (v : Word) (req : Request) :
    SameOutcome (execHandle req s) (execHandle req (s.withCrc v)) := by
  have h := handleRequest_stale hs v req
  unfold execHandle
  rw [State.withCrc_life]
  generalize handleRequest req s = o, handleRequest req (s.withCrc v) = o' at h ⊢
  split
  · cases h with
    | error f => exact .inr ⟨hs, rfl⟩
    | ok b h => exact report_stale h _
  · exact asDispatcher_stale hs v _ _

theorem execEnqueue_stale (hs : s.crcLoaded = false) (v : Word) (req : Request) :
    SameOutcome (execEnqueue req s) (execEnqueue req (s.withCrc v)) := by
  have h := enqueueStep_stale hs v (Config.freeChoice s.draws) req.sink
  unfold execEnqueue
  rw [State.withCrc_parsedRequest, State.withCrc_draws]
  generalize enqueueStep _ _ s = o, enqueueStep _ _ (s.withCrc v) = o' at h ⊢
  split
  · cases h with
    | none => exact .inr ⟨hs, rfl⟩
    | some h => exact report_stale (countDraw_stale h) _
  · exact .inr ⟨hs, rfl⟩

theorem execRoute_stale (hs : s.crcLoaded = false) (v : Word) (b : List Byte) (k : SinkId) :
    SameOutcome (execRoute b k s) (execRoute b k (s.withCrc v)) :=
  sameOutcome_ite (report_stale (routeResponse_stale hs v b k) _) (.inr ⟨hs, rfl⟩)

/-- An instruction answers alike for every value of a stale register: it does not touch it, or it loads it, or it is CRC_UPDATE,
which raises the fault (R112, R255). -/
theorem exec_stale (hs : s.crcLoaded = false) (v : Word) (i : Instr) : SameOutcome (exec i s) (exec i (s.withCrc v)) := by
  cases i with
  | readCoils | readDiscreteInputs | readHoldingRegisters | readInputRegisters | writeSingleCoil | writeSingleRegister
  | writeMultipleCoils | writeMultipleRegisters | unknownFunction => exact serveFrame_stale hs v _
  | bankReadCoils | bankReadDiscreteInputs | bankReadHoldingRegisters | bankReadInputRegisters | bankWriteSingleCoil
  | bankWriteSingleRegister | bankWriteMultipleCoils | bankWriteMultipleRegisters => exact beforeStart_stale hs v _ _
  | exceptionResponse | bitsPack | bitsUnpack | tcpParse | excInject | respBuild | fnLookup => exact .inr ⟨hs, rfl⟩
  | crcInit | crc16 | rtuSerialize => exact .inl rfl
  | reservedOpsel => rfl
  | crcUpdate b =>
    simp only [exec, execCrcUpdate, State.withCrc_crcLoaded, hs]
    exact .inr ⟨hs, rfl⟩
  | crcCheck b =>
    simp only [exec, execCrcCheck]
    split
    · exact .inr ⟨hs, rfl⟩
    · exact .inl rfl
  | rtuParse b => exact report_stale (afterRtuParse_stale (sameButStaleCrc_withCrc hs v) b) _
  | tcpSerialize f =>
    simp only [exec, execTcpSerialize]
    split <;> exact .inr ⟨hs, rfl⟩
  | handle req => exact execHandle_stale hs v req
  | route b k => exact execRoute_stale hs v b k
  | fnSet fc h => exact sameOutcome_ite (.inr ⟨hs, rfl⟩) rfl
  | close => exact sameOutcome_ite (.inr ⟨hs, rfl⟩) rfl
  | enqueue req => exact execEnqueue_stale hs v req

theorem runMove_stale (hs : s.crcLoaded = false) (v : Word) (m : Move) : SameOutcome (runMove m s) (runMove m (s.withCrc v)) := by
  cases m with
  | listenTcp ok => cases ok <;> exact sameOutcome_ite (.inr ⟨hs, rfl⟩) rfl
  | listenRtu ok => cases ok <;> exact sameOutcome_ite (.inr ⟨hs, rfl⟩) rfl
  | start => exact sameOutcome_ite (.inr ⟨hs, rfl⟩) rfl
  | send | hangUp | tcpHeader | tcpBody | tcpParse | tcpCloseCheck | tcpEnd =>
    exact sameOutcome_orWait hs (onConn_stale hs v _ _ _)
  | rtuStart | rtuUnstarted | rtuCheck | serialError => exact sameOutcome_orWait hs (onPort_stale hs v _ _)
  | acceptError | accStart | accResume => exact sameOutcome_orWait hs (onAcc_stale hs v _ _)
  | accept l => exact sameOutcome_orWait hs (acceptConnection_stale hs v l)
  | dispStart | dispClose | shutdownComplete => exact sameOutcome_orWait hs (sameStep_ite (.inr ⟨hs, rfl⟩))
  | dispRequest => exact sameOutcome_orWait hs (dispRequest_stale hs v)
  | dispWrite => exact sameOutcome_orWait hs (dispWrite_stale hs v)
  | push k => exact sameOutcome_orWait hs (pushRequest_stale hs v k)
  | abandon k => exact sameOutcome_orWait hs (abandonRequest_stale hs v k)
  | leaveWait k => exact sameOutcome_orWait hs (leaveWait_stale hs v k)
  | serialRead p chunk => exact sameOutcome_orWait hs (serialRead_stale hs v p chunk)

theorem consume_stale (hs : s.crcLoaded = false) (v : Word) (i : Input) : SameOutcome (consume i s) (consume i (s.withCrc v)) := by
  cases i with
  | message port bytes =>
    unfold consume
    simp only
    split
    · exact exec_stale hs v _
    · rfl
  | move m => exact runMove_stale hs v m

/-- Both states consume the same input. -/
theorem nextInput_withCrc (s : State) (v : Word) :
    nextInput (s.withCrc v) = ((nextInput s).1, (nextInput s).2.withCrc v) := by
  change (match s.inputs with | i :: rest => _ | [] => _) = _
  unfold nextInput
  cases s.inputs <;> rfl

theorem step_stale (hs : s.crcLoaded = false) (v : Word) : SameOutcome (step s) (step (s.withCrc v)) := by
  have hn : (nextInput s).2.crcLoaded = false := by
    obtain ⟨_, _, h⟩ := nextInput_state s
    rw [h, ← hs]
  unfold step
  rw [State.withCrc_fault, nextInput_withCrc]
  cases s.fault with
  | some f => rfl
  | none => exact consume_stale hn v (nextInput s).1

/-- Settles O60: a stale CRC register is read by no step, whatever instruction or move it takes. -/
theorem staleCrcIsNotObservable : Obligations.StaleCrcIsNotObservable := by
  unfold Obligations.StaleCrcIsNotObservable
  intro s t h
  rcases sameButStaleCrc_iff.1 h with rfl | ⟨hs, v, rfl⟩
  · exact sameOutcome_refl _
  · exact step_stale hs v

end Sys2Proof.Machine
end

section
/-! O33, O55, O59. What a step does to the parameters, the function table, the close signal and the lifecycle state, and which input
it runs. -/

namespace Sys2Proof.Machine

/-! The input a step consumes. -/

theorem nextInput_cons {s : State} {i : Input} {rest : List Input} (h : s.inputs = i :: rest) :
    nextInput s = (i, s.setInputs rest) := by
  simp only [nextInput, h]

theorem nextInput_nil {s : State} (h : s.inputs = []) : nextInput s = (Config.freeInput s.draws, s.countDraw) := by
  simp only [nextInput, h]

theorem step_of_no_fault {s : State} (h : s.fault = none) : step s = consume (nextInput s).1 (nextInput s).2 := by
  simp only [step, h]

theorem consume_message {port : Port} {bytes : List Byte} {i : Instr} (h : decode port bytes = .ok i) (s : State) :
    consume (.message port bytes) s = exec i s := by
  simp only [consume, h]

theorem decode_of_decodeTableWord {nbits w : Nat} {i : Instr} (h : decodeTableWord nbits w = some i) :
    decode (tableMessage nbits w).1 (tableMessage nbits w).2 = .ok i := by
  unfold decodeTableWord at h
  generalize decode _ _ = d at h ⊢
  cases d with
  | error e => cases h
  | ok j => rw [Option.some.inj h]

/-- Settles O59: the next input is the head of the list, or the free value where none is listed, and bytes that decode run as
what they decode to. -/
theorem stepRunsTheDecodedInstruction : Obligations.StepRunsTheDecodedInstruction := by
  unfold Obligations.StepRunsTheDecodedInstruction
  refine ⟨fun s port bytes i rest hf hin hd => ?_, fun s m rest hf hin => ?_, fun s hf hin => ?_, fun s nbits w i hf hd => ?_⟩
  · rw [step_of_no_fault hf, nextInput_cons hin]
    exact consume_message hd _
  · rw [step_of_no_fault hf, nextInput_cons hin]
    rfl
  · rw [step_of_no_fault hf, nextInput_nil hin]
    rfl
  · rw [step_of_no_fault (s := s.withFetchWord nbits w) hf]
    exact consume_message (decode_of_decodeTableWord hd) s

/-! The input is taken before anything else is done: what that leaves. -/

/-- Taking the next input leaves bank, function table, fault register, parameters, close signal and queue as they were. -/
theorem nextInput_store (s : State) : StoreEq s (nextInput s).2 := by
  obtain ⟨_, _, h⟩ := nextInput_state s
  rw [h]
  exact ⟨rfl, rfl, rfl, rfl, rfl, List.prefix_rfl⟩

theorem nextInput_life (s : State) : (nextInput s).2.life = s.life := by
  obtain ⟨_, _, h⟩ := nextInput_state s
  rw [h]

theorem step_store {s t : State} (h : step s = .next t) : StoreStep (nextInput s).1 (nextInput s).2 t :=
  consume_store (step_eq_next h).2

/-! Parameters, function table and close signal. -/

/-- What one input can do to parameters, function table and close signal: no input writes the parameters (R38), FN_SET in `CONFIG` alone
the function table (R36, R197), and CLOSE in `RUNNING` alone the close signal (R27, R276). -/
def SettingsStep (i : Input) (s t : State) : Prop :=
  t.cfg = s.cfg ∧
  ((t.ft = s.ft ∧ t.close = s.close) ∨
   (s.life = .config ∧ t.close = s.close ∧
    ∃ port bytes fc h, i = .message port bytes ∧ decode port bytes = .ok (.fnSet fc h)) ∨
   (s.life = .running ∧ t.life = .shutdown ∧ t.ft = s.ft ∧
    ∃ port bytes, i = .message port bytes ∧ decode port bytes = .ok .close))

theorem StoreStep.settings {i : Input} {s t : State} (h : StoreStep i s t) : SettingsStep i s t := by
  cases h with
  | quiet h => exact ⟨h.cfg, .inl ⟨h.ft, h.close⟩⟩
  | before _ _ _ hft _ hcfg hclose => exact ⟨hcfg, .inl ⟨hft, hclose⟩⟩
  | takes _ _ _ _ _ _ _ _ hr ht => rw [ht, handleRequest_state hr]; exact ⟨rfl, .inl ⟨rfl, rfl⟩⟩
  | fnSet port bytes fc h hi hd hl ht => rw [ht]; exact ⟨rfl, .inr (.inl ⟨hl, rfl, port, bytes, fc, h, hi, hd⟩)⟩
  | shutdown port bytes hi hd hl ht => rw [ht]; exact ⟨rfl, .inr (.inr ⟨hl, rfl, rfl, port, bytes, hi, hd⟩)⟩
  | stale _ _ _ _ _ _ ht | long _ _ _ _ _ _ ht | handle _ _ _ _ _ _ _ ht | pop _ _ _ _ _ _ ht =>
    rw [ht]; exact ⟨rfl, .inl ⟨rfl, rfl⟩⟩

theorem step_settings {s t : State} (h : step s = .next t) : SettingsStep (nextInput s).1 s t := by
  have hn := nextInput_store s
  unfold SettingsStep
  rw [← hn.cfg, ← hn.ft, ← hn.close, ← nextInput_life]
  exact (step_store h).settings

/-- Settles O33: of the inputs only an FN_SET in `CONFIG` writes the function table, and none writes the parameters. -/
theorem configurationWrittenOnlyByFnSet : Obligations.ConfigurationWrittenOnlyByFnSet := by
  unfold Obligations.ConfigurationWrittenOnlyByFnSet
  intro s t h
  obtain ⟨hcfg, ⟨hft, _⟩ | ⟨hl, _, hset⟩ | ⟨_, _, hft, _⟩⟩ := step_settings h
  · exact ⟨hcfg, .inl hft⟩
  · exact ⟨hcfg, .inr ⟨hl, hset⟩⟩
  · exact ⟨hcfg, .inl hft⟩

/-! The lifecycle state. -/

/-- What a step can do to lifecycle state and close signal: nothing, or one of the three transitions of R34. -/
def LifeStep (s t : State) : Prop :=
  (t.life = s.life ∧ t.close = s.close) ∨
  (s.life = .config ∧ t.life = .running ∧ t.close = s.close) ∨
  (s.life = .running ∧ t.life = .shutdown ∧ t.close = true) ∨
  (s.life = .shutdown ∧ t.life = .stopped ∧ t.close = s.close ∧ s.readersClosed = true)

theorem CoreStep.life {s t : State} (h : CoreStep s t) : LifeStep s t := by
  cases h with
  | start hl => exact .inr (.inl ⟨hl, rfl, rfl⟩)
  | shutdown hl => exact .inr (.inr (.inl ⟨hl, rfl, rfl⟩))
  | complete hl hr => exact .inr (.inr (.inr ⟨hl, rfl, rfl, hr⟩))
  | quiet | pop | dispStart | dispClose | port | acc | accept | listenTcp | listenRtu => exact .inl ⟨rfl, rfl⟩
  | route | push | drop | conn => exact .inl (by simp [routeResponse])

theorem CoreEq.readersClosed {s t : State} (h : CoreEq s t) : t.readersClosed = s.readersClosed := by
  simp only [State.readersClosed, h.listeners, h.ports]

theorem step_life {s t : State} (h : step s = .next t) : LifeStep s t := by
  obtain ⟨s', u, hs, hu, ht⟩ := step_core h
  unfold LifeStep
  rw [ht.life, ht.close, ← hs.life, ← hs.close, ← hs.readersClosed]
  exact hu.life

/-- The close signal is never cleared (R27). -/
theorem LifeStep.close_mono {s t : State} (h : LifeStep s t) (hc : s.close = true) : t.close = true := by
  rcases h with ⟨_, ht⟩ | ⟨_, _, ht⟩ | ⟨_, _, ht⟩ | ⟨_, _, ht, _⟩
  · exact ht.trans hc
  · exact ht.trans hc
  · exact ht
  · exact ht.trans hc

/-- Settles O55: the close signal is written by the CLOSE command alone, and the lifecycle state moves along R34. -/
theorem closeSignalSetOnlyByShutdown : Obligations.CloseSignalSetOnlyByShutdown := by
  unfold Obligations.CloseSignalSetOnlyByShutdown
  intro s t h
  have hlife := step_life h
  refine ⟨hlife.close_mono, fun hs ht => ?_, ?_⟩
  · have hne : t.close ≠ s.close := by simp [hs, ht]
    obtain ⟨_, ⟨_, hc⟩ | ⟨_, hc, _⟩ | ⟨hl, hl', _, hclose⟩⟩ := step_settings h
    · exact absurd hc hne
    · exact absurd hc hne
    · exact ⟨hl, hl', hclose⟩
  · rcases hlife with ⟨hl, _⟩ | ⟨hl, hl', _⟩ | hl | ⟨hl, hl', _, hr⟩
    · exact .inl hl
    · exact .inr (.inl ⟨hl, hl'⟩)
    · exact .inr (.inr (.inl hl))
    · exact .inr (.inr (.inr ⟨hl, hl', hr⟩))

end Sys2Proof.Machine
end

section
/-! O51, O52. The state after construction and after reset (R37, R44, R270). -/

namespace Sys2Proof.Machine

/-- The slots of the reset table: the eight standard handlers at their codes (R37). -/
theorem State.reset_slot (fc : Byte) : State.reset.slot fc =
    if fc = 1#8 then some .stdReadCoils
    else if fc = 2#8 then some .stdReadDiscreteInputs
    else if fc = 3#8 then some .stdReadHoldingRegisters
    else if fc = 4#8 then some .stdReadInputRegisters
    else if fc = 5#8 then some .stdWriteSingleCoil
    else if fc = 6#8 then some .stdWriteSingleRegister
    else if fc = 15#8 then some .stdWriteMultipleCoils
    else if fc = 16#8 then some .stdWriteMultipleRegisters
    else none := by
  simp only [State.slot, State.reset, State.construct, resetTable, Vector.getElem_set, Vector.getElem_replicate,
    BitVec.toNat_eq, BitVec.toNat_ofNat]
  grind

/-- Settles O52: the table of R37 slot by slot; the default bank lists no entry, so each reads 0. -/
theorem resetState : Obligations.ResetState := by
  unfold Obligations.ResetState
  exact ⟨State.reset_slot, ⟨_, rfl, fun _ => ⟨rfl, rfl, rfl, rfl⟩⟩, rfl, rfl, rfl, rfl, rfl, rfl, rfl⟩

section

variable (cfg : Params) (bank : Bank)

theorem State.construct_sourcesWf : (State.construct cfg bank).SourcesWf :=
  ⟨fun _ _ _ h => by simp [State.conn?, State.listener?, State.construct] at h,
   fun _ _ h => by simp [State.port?, State.construct] at h⟩

theorem State.construct_oneOutstanding : (State.construct cfg bank).OneOutstanding where
  once _ := Nat.zero_le 1
  queued _ h := nomatch h
  writing _ _ h := nomatch h
  live _ _ h := nomatch h
  bounded := Nat.zero_le _

theorem State.construct_lifecycleWf : (State.construct cfg bank).LifecycleWf where
  closeIff := by simp [State.construct]
  config _ := ⟨rfl, rfl, List.forall_mem_nil _, List.forall_mem_nil _⟩
  exited h := nomatch h
  stopped h := nomatch h

theorem State.construct_sound {bank : Bank} (h : bank.wf = true) : (State.construct cfg bank).Sound :=
  ⟨h, construct_sourcesWf cfg bank, construct_oneOutstanding cfg bank, construct_lifecycleWf cfg bank⟩

end

/-- Settles O51: a block just constructed has no source, no request and nothing running, so only its bank is left to check. -/
theorem resetIsSound : Obligations.ResetIsSound := by
  unfold Obligations.ResetIsSound
  exact ⟨State.construct_sound _ Bank.zero_wf, fun cfg _ h => State.construct_sound cfg h⟩

end Sys2Proof.Machine
end

section
/-! O48 (R24, R41, R42). Every step keeps the sources sound: shown for each case of `CoreStep`. -/

namespace Sys2Proof.Machine

/-! Which sources are there after a lifecycle call. -/

theorem State.conn?_listenTcp (s : State) (l n : Nat) :
    (s.setListeners (s.listeners ++ [⟨.off, []⟩])).conn? l n = s.conn? l n := by
  simp only [State.conn?, State.listener?, State.setListeners_listeners]
  rcases Nat.lt_trichotomy l s.listeners.length with hl | rfl | hl
  · rw [List.getElem?_append_left hl]
  · simp
  · rw [List.getElem?_eq_none (by simp; omega), List.getElem?_eq_none (by omega)]

theorem State.port?_listenRtu {s : State} {p : Nat} {sp : SerialPort}
    (h : (s.setPorts (s.ports ++ [SerialPort.fresh])).port? p = some sp) : s.port? p = some sp ∨ sp = SerialPort.fresh := by
  simp only [State.port?, State.setPorts_ports] at h ⊢
  rw [List.getElem?_append] at h
  split at h
  · exact .inl h
  · exact .inr (List.mem_singleton.1 (List.mem_of_getElem? h))

/-- Closing the accept units leaves every connection as it was. -/
theorem State.conn?_closeAccepts (s : State) (l n : Nat) :
    (s.setListeners (s.listeners.map fun li => { li with acc := li.acc.close })).conn? l n = s.conn? l n := by
  simp only [State.conn?, State.listener?, State.setListeners_listeners, List.getElem?_map, Option.bind_map, Function.comp_def]

/-- Closing the ports changes `open(s)` of each and nothing else. -/
theorem State.port?_closePorts (s : State) (p : Nat) :
    (s.setPorts (s.ports.map fun sp => { sp with isOpen := false })).port? p =
      (s.port? p).map fun sp => { sp with isOpen := false } :=
  List.getElem?_map

/-! The sources stay sound. -/

theorem Conn.fresh_wf (k : SinkId) : Conn.fresh.wf k := by
  constructor <;> simp [Conn.fresh, TcpReader.wf]

theorem SerialPort.fresh_wf (k : SinkId) : SerialPort.fresh.wf k := by
  constructor <;> simp [SerialPort.fresh, RtuReader.wf]

theorem Conn.wait_wf {k : SinkId} {c : Conn} {req : Request} (hw : c.wf k) (hr : c.rstate = .enq req) :
    Conn.wf k { c with rstate := .wait req } := by
  have ho : c.isOpen = true := hw.openIff.2 (by simp [hr])
  have hreq := hw.reader
  rw [hr] at hreq
  exact ⟨hreq, by simp [ho], nofun⟩

theorem SerialPort.wait_wf {k : SinkId} {sp : SerialPort} {req : Request} (hw : sp.wf k) (hr : sp.rstate = .enq req) :
    SerialPort.wf k { sp with rstate := .wait req } := by
  have ho : sp.isOpen = true := hw.openIff.2 (by simp [hr])
  have hreq := hw.reader
  rw [hr] at hreq
  exact ⟨hreq, by simp [ho]⟩

/-- An operation on the source `k` keeps the sources sound if it keeps that source sound. -/
theorem State.SourcesWf.update {s t : State} {k : SinkId} {f : Conn → Conn} {g : SerialPort → SerialPort} (hw : s.SourcesWf)
    (hconn : ∀ l n, t.conn? l n = (s.conn? l n).map fun c => if k = .tcp l n then f c else c)
    (hport : ∀ p, t.port? p = (s.port? p).map fun sp => if k = .rtu p then g sp else sp)
    (hf : ∀ l n c, k = .tcp l n → s.conn? l n = some c → (f c).wf k)
    (hg : ∀ p sp, k = .rtu p → s.port? p = some sp → (g sp).wf k) : t.SourcesWf := by
  constructor
  · intro l n c h
    rw [hconn, Option.map_eq_some_iff] at h
    obtain ⟨c, hc, rfl⟩ := h
    split
    · rename_i hk; exact hk ▸ hf l n c hk hc
    · exact hw.conns l n c hc
  · intro p sp h
    rw [hport, Option.map_eq_some_iff] at h
    obtain ⟨sp, hp, rfl⟩ := h
    split
    · rename_i hk; exact hk ▸ hg p sp hk hp
    · exact hw.ports p sp hp

theorem CoreStep.sourcesWf {s t : State} (h : CoreStep s t) (hw : s.SourcesWf) : t.SourcesWf := by
  cases h with
  | quiet | pop | dispStart | dispClose | start | shutdown => exact ⟨hw.conns, hw.ports⟩
  | route b k =>
    exact hw.update (s.conn?_writeBack b k) (s.port?_writeBack b k)
      (fun l n c hk hc => Conn.deliver_release_wf b (hk ▸ hw.conns l n c hc))
      (fun p sp hk hp => SerialPort.deliver_release_wf b (hk ▸ hw.ports p sp hp))
  | push k req hr =>
    refine hw.update (State.conn?_startWait k req _) (State.port?_startWait k req _) ?_ ?_
    · rintro l n c rfl hc
      obtain ⟨c', hc', hr⟩ := State.parsedRequest_tcp_iff.1 hr
      cases hc.symm.trans hc'
      exact Conn.wait_wf (hw.conns l n c hc) hr
    · rintro p sp rfl hp
      obtain ⟨sp', hp', hr⟩ := State.parsedRequest_rtu_iff.1 hr
      cases hp.symm.trans hp'
      exact SerialPort.wait_wf (hw.ports p sp hp) hr
  | drop k =>
    exact hw.update (State.conn?_closeSource k s) (State.port?_closeSource k s)
      (fun _ _ c _ _ => Conn.teardown_wf k c) (fun _ sp _ _ => SerialPort.shut_wf k sp)
  | conn l n c c' hc hstep =>
    refine ⟨fun l' n' x hx => ?_, fun p sp hp => hw.ports p sp (by simpa using hp)⟩
    rw [State.conn?_setConn hc] at hx
    split at hx
    · rename_i hln
      obtain ⟨rfl, rfl⟩ := hln
      cases hx
      exact hstep.wf (hw.conns _ _ c hc)
    · exact hw.conns l' n' x hx
  | port p sp sp' hp hstep =>
    refine ⟨fun l n c hc => hw.conns l n c (by simpa using hc), fun p' x hx => ?_⟩
    rw [State.port?_setPort hp] at hx
    split at hx
    · rename_i hpp
      subst hpp
      cases hx
      exact hstep.wf (hw.ports _ sp hp)
    · exact hw.ports p' x hx
  | acc l li a hli =>
    exact ⟨fun l' n c hc => hw.conns l' n c (by rwa [State.conn?_setAcc hli] at hc), hw.ports⟩
  | accept l li hli =>
    refine ⟨fun l' n c hc => ?_, hw.ports⟩
    rw [State.conn?_accept hli] at hc
    split at hc
    · cases hc; exact Conn.fresh_wf _
    · exact hw.conns l' n c hc
  | listenTcp => exact ⟨fun l n c hc => hw.conns l n c (by rwa [State.conn?_listenTcp] at hc), hw.ports⟩
  | listenRtu =>
    refine ⟨hw.conns, fun p sp hp => ?_⟩
    rcases State.port?_listenRtu hp with hp | rfl
    · exact hw.ports p sp hp
    · exact SerialPort.fresh_wf _
  | complete _ hr =>
    have hclosed := s.readersClosed_iff.1 hr
    refine ⟨fun l n c hc => hw.conns l n c ((s.conn?_closeAccepts l n).symm.trans hc), fun p x hx => ?_⟩
    obtain ⟨sp, hp, rfl⟩ := Option.map_eq_some_iff.1 ((s.port?_closePorts p).symm.trans hx)
    exact ⟨(hw.ports p sp hp).reader, by simp [hclosed.2 p sp hp]⟩

/-- Settles O48: each operation on a source leaves it sound and the others alone, and a new source is sound. -/
theorem stepKeepsSourcesSound : Obligations.StepKeepsSourcesSound := by
  unfold Obligations.StepKeepsSourcesSound
  intro s t h hw
  obtain ⟨s', u, hs, hu, ht⟩ := step_core h
  exact (hu.sourcesWf (hw.congr hs)).congr ht

end Sys2Proof.Machine
end

section
/-! O50 (R27, R34, R192, R271, R276). Every step keeps what the lifecycle promises: in `CONFIG` and in `STOPPED` hardly a case of
`CoreStep` is enabled, and the close signal and `D_EXIT` are looked at case by case. -/

namespace Sys2Proof.Machine

/-! Closed readers stay closed and hold no request. -/

theorem Conn.deliver_release_closed {c : Conn} (b : List Byte) (h : c.rstate = .closed) : (c.deliver b).release.rstate = .closed := by
  have hd : (c.deliver b).rstate = .closed := by unfold Conn.deliver; split <;> exact h
  simp [Conn.release, hd]

theorem SerialPort.deliver_release_closed {sp : SerialPort} (b : List Byte) (h : sp.rstate = .closed) :
    (sp.deliver b).release.rstate = .closed := by
  have hd : (sp.deliver b).rstate = .closed := by unfold SerialPort.deliver; split <;> exact h
  simp [SerialPort.release, hd]

theorem State.readersClosed_writeBack {s : State} (b : List Byte) (k : SinkId) (h : s.readersClosed = true) :
    (s.writeBack b k).readersClosed = true := by
  obtain ⟨hconn, hport⟩ := s.readersClosed_iff.1 h
  refine (State.readersClosed_iff _).2 ⟨fun l n c hc => ?_, fun p sp hp => ?_⟩
  · rw [State.conn?_writeBack, Option.map_eq_some_iff] at hc
    obtain ⟨c, hc, rfl⟩ := hc
    split
    · exact Conn.deliver_release_closed b (hconn l n c hc)
    · exact hconn l n c hc
  · rw [State.port?_writeBack, Option.map_eq_some_iff] at hp
    obtain ⟨sp, hp, rfl⟩ := hp
    split
    · exact SerialPort.deliver_release_closed b (hport p sp hp)
    · exact hport p sp hp

theorem ConnStep.rstate_closed {p : Params} {close : Bool} {sink : SinkId} {c c' : Conn} (h : ConnStep p close sink c c')
    (hc : c.rstate = .closed) : c'.rstate = .closed := by
  rcases h.rstate.2 with ⟨hr, _⟩ | hr
  · exact hr.trans hc
  · simp [hc] at hr

theorem State.readersClosed_setConn {s : State} {l n : Nat} {c c' : Conn} (h : s.readersClosed = true) (hc : s.conn? l n = some c)
    (hc' : c'.rstate = .closed) : (s.setConn l n c').readersClosed = true := by
  obtain ⟨hconn, hport⟩ := s.readersClosed_iff.1 h
  refine (State.readersClosed_iff _).2 ⟨fun l' n' x hx => ?_, fun p sp hp => hport p sp (by simpa using hp)⟩
  rw [State.conn?_setConn hc] at hx
  split at hx
  · cases hx; exact hc'
  · exact hconn l' n' x hx

/-- The completion of `shutdown()` changes no reader. -/
theorem State.readersClosed_complete {s : State} (h : s.readersClosed = true) :
    (((s.setListeners (s.listeners.map fun li => { li with acc := li.acc.close })).setPorts
      (s.ports.map fun sp => { sp with isOpen := false })).setLife .stopped).readersClosed = true := by
  obtain ⟨hconn, hport⟩ := s.readersClosed_iff.1 h
  refine (State.readersClosed_iff _).2 ⟨fun l n c hc => hconn l n c ((s.conn?_closeAccepts l n).symm.trans hc), fun p x hx => ?_⟩
  obtain ⟨sp, hp, rfl⟩ := Option.map_eq_some_iff.1 ((s.port?_closePorts p).symm.trans hx)
  exact hport p sp hp

/-- Where every reader is closed, none holds a request. -/
theorem State.no_request_of_readersClosed {s : State} (h : s.readersClosed = true) (k : SinkId) (req : Request) :
    s.parsedRequest k ≠ some req ∧ s.awaited k ≠ some req := by
  obtain ⟨hconn, hport⟩ := s.readersClosed_iff.1 h
  cases k with
  | tcp l n =>
    rw [Ne, Ne, State.parsedRequest_tcp_iff, State.awaited_tcp_iff]
    constructor <;> (rintro ⟨c, hc, hr⟩; cases (hconn l n c hc).symm.trans hr)
  | rtu p =>
    rw [Ne, Ne, State.parsedRequest_rtu_iff, State.awaited_rtu_iff]
    constructor <;> (rintro ⟨sp, hp, hr⟩; cases (hport p sp hp).symm.trans hr)

/-! Which steps of a port or an accept unit are enabled. -/

/-- A reader in `U_OFF` starts in `RUNNING` or is closed with `close = 1`, and has no other step. -/
theorem PortStep.of_off {life : Life} {close : Bool} {sink : SinkId} {sp sp' : SerialPort} (h : PortStep life close sink sp sp')
    (hoff : sp.rstate = .off) : life = .running ∨ close = true := by
  cases h with
  | start h => simp only [SerialPort.startReader, Option.ite_none_right_eq_some] at h; exact .inl h.1.2
  | unstarted h => simp only [SerialPort.closeUnstarted, Option.ite_none_right_eq_some] at h; exact .inr h.1.2
  | check h => simp [SerialPort.checkClose, hoff] at h
  | read chunk h => simp [SerialPort.readChunk, hoff] at h
  | error h => simp [SerialPort.portError, hoff] at h

/-- An accept unit that has ended takes no step. -/
theorem AccStep.not_ended {life : Life} {close : Bool} {a a' : AccState} (h : AccStep life close a a') :
    ¬ (a = .closed ∨ a = .error) := by
  cases h <;> simp

/-- Every accept unit has ended. -/
def State.acceptsEnded (s : State) : Prop := ∀ li ∈ s.listeners, li.acc = .closed ∨ li.acc = .error

theorem State.acceptsEnded_iff (s : State) : s.acceptsEnded ↔ ∀ a ∈ s.accs, a = .closed ∨ a = .error := by
  simp [State.acceptsEnded, State.accs]

theorem AccState.close_ended (a : AccState) : a.close = .closed ∨ a.close = .error := by
  cases a <;> simp [AccState.close]

/-! `CONFIG`, `STOPPED` and `D_EXIT`. -/

/-- Before `start()` nothing runs: what `LifecycleWf` says of `CONFIG`. -/
def State.Unstarted (s : State) : Prop :=
  s.dstate = .off ∧ s.queue = [] ∧ (∀ li ∈ s.listeners, li.acc = .off ∧ li.conns = []) ∧ ∀ sp ∈ s.ports, sp.rstate = .off

theorem State.Unstarted.conn?_eq_none {s : State} (h : s.Unstarted) (l n : Nat) : s.conn? l n = none := by
  obtain ⟨_, _, hli, _⟩ := h
  refine Option.eq_none_iff_forall_not_mem.2 fun c hc => ?_
  obtain ⟨li, hl, hn⟩ := State.conn?_isSome_listener hc
  simp [(hli li (List.mem_of_getElem? hl)).2] at hn

theorem State.Unstarted.parsedRequest_ne_some {s : State} (h : s.Unstarted) (k : SinkId) (req : Request) :
    s.parsedRequest k ≠ some req := by
  intro hr
  cases k with
  | tcp l n =>
    obtain ⟨c, hc, _⟩ := State.parsedRequest_tcp_iff.1 hr
    cases (h.conn?_eq_none l n).symm.trans hc
  | rtu p =>
    obtain ⟨_, _, _, hports⟩ := h
    obtain ⟨sp, hp, hr⟩ := State.parsedRequest_rtu_iff.1 hr
    cases (hports sp (List.mem_of_getElem? hp)).symm.trans hr

/-- In `CONFIG` only listeners and ports are added: no agent is enabled yet. -/
theorem CoreStep.unstarted {s t : State} (h : CoreStep s t) (hw : s.LifecycleWf) (hl : t.life = .config) : t.Unstarted := by
  have hs : s.life = .config := by
    rcases h.life with ⟨hts, _⟩ | ⟨_, ht, _⟩ | ⟨_, ht, _⟩ | ⟨_, ht, _⟩
    · exact hts.symm.trans hl
    all_goals cases ht.symm.trans hl
  have hun : s.Unstarted := hw.config hs
  have hclose : s.close ≠ true := fun hc => by simpa [hs] using hw.closeIff.1 hc
  have ⟨hd, hq, hli, hports⟩ := hun
  cases h with
  | quiet => exact hun
  | listenTcp => exact ⟨hd, hq, by simpa [or_imp, forall_and] using hli, hports⟩
  | listenRtu => exact ⟨hd, hq, hli, by simpa [or_imp, forall_and, SerialPort.fresh] using hports⟩
  | route _ _ h => cases hd.symm.trans h
  | pop _ _ _ h | dispClose h => cases hd.symm.trans h
  | push k req h => exact absurd h (hun.parsedRequest_ne_some k req)
  | drop k _ hc => exact absurd hc hclose
  | dispStart _ h => cases hs.symm.trans h
  | conn l n c c' h => cases (hun.conn?_eq_none l n).symm.trans h
  | port p sp sp' h hp =>
    rcases hp.of_off (hports sp (List.mem_of_getElem? h)) with h | h
    · cases hs.symm.trans h
    · exact absurd h hclose
  | acc l li a h ha =>
    rw [(hli li (List.mem_of_getElem? h)).1] at ha
    cases ha with | start hr => cases hs.symm.trans hr
  | accept l li h ha => cases (hli li (List.mem_of_getElem? h)).1.symm.trans ha
  | start => cases hl
  | shutdown => cases hl
  | complete => cases hl

/-- The completion of `shutdown()` leaves every reader closed and ends every accept unit; in `STOPPED` no reader or accept unit is
enabled, and the dispatcher's writes change neither. -/
theorem CoreStep.stopped {s t : State} (h : CoreStep s t) (hw : s.LifecycleWf) (hl : t.life = .stopped) :
    t.readersClosed = true ∧ t.acceptsEnded := by
  have closed : s.life = .stopped → s.readersClosed = true := fun hs => (hw.stopped hs).1
  have ended : s.life = .stopped → s.acceptsEnded := fun hs => (hw.stopped hs).2
  cases h with
  | quiet | pop | dispClose => exact hw.stopped hl
  | complete _ hr => exact ⟨State.readersClosed_complete hr, List.forall_mem_map.2 fun li _ => li.acc.close_ended⟩
  | start => cases hl
  | shutdown => cases hl
  | listenTcp hs => cases hs.symm.trans hl
  | listenRtu hs => cases hs.symm.trans hl
  | dispStart _ hs => cases hs.symm.trans hl
  | route b k =>
    have hs : s.life = .stopped := by simpa [routeResponse] using hl
    refine ⟨State.readersClosed_writeBack b k (closed hs), (State.acceptsEnded_iff _).2 ?_⟩
    change ∀ a ∈ (s.writeBack b k).accs, _
    rw [State.accs_writeBack]
    exact s.acceptsEnded_iff.1 (ended hs)
  | push k req h =>
    have hs : s.life = .stopped := by simpa using hl
    exact absurd h (State.no_request_of_readersClosed (closed hs) k req).1
  | drop k h =>
    have hs : s.life = .stopped := by simpa using hl
    simp [Option.isSome_iff_exists, State.no_request_of_readersClosed (closed hs) k] at h
  | conn l n c c' hc hstep =>
    have hs : s.life = .stopped := by simpa using hl
    have hcl := hstep.rstate_closed ((s.readersClosed_iff.1 (closed hs)).1 l n c hc)
    refine ⟨State.readersClosed_setConn (closed hs) hc hcl, (State.acceptsEnded_iff _).2 ?_⟩
    rw [State.accs_setConn]
    exact s.acceptsEnded_iff.1 (ended hs)
  | port p sp sp' hp hstep =>
    have hr := hstep.rstate.2
    simp [(s.readersClosed_iff.1 (closed hl)).2 p sp hp] at hr
  | acc l li a hli ha => exact absurd (ended hl li (List.mem_of_getElem? hli)) ha.not_ended
  | accept l li hli ha =>
    have he := ended hl li (List.mem_of_getElem? hli)
    simp [ha] at he

/-- The dispatcher leaves its loop only on the close signal (R192). -/
theorem CoreStep.exited {s t : State} (h : CoreStep s t) (ht : t.dstate = .exit) : s.dstate = .exit ∨ s.close = true := by
  cases h with
  | dispClose _ hc => exact .inr hc
  | quiet | port | acc | accept | listenTcp | listenRtu | start | shutdown | complete => exact .inl ht
  | push | drop | conn => exact .inl (by simpa using ht)
  | route | pop | dispStart => cases ht

theorem CoreStep.lifecycleWf {s t : State} (h : CoreStep s t) (hw : s.LifecycleWf) : t.LifecycleWf where
  closeIff := by
    have hs := hw.closeIff
    rcases h.life with ⟨hl, hc⟩ | ⟨hl, hl', hc⟩ | ⟨_, hl', hc⟩ | ⟨hl, hl', hc, _⟩
    · rwa [hl, hc]
    · simpa [hl, hl', hc] using hs
    · simp [hl', hc]
    · simpa [hl, hl', hc] using hs
  config := h.unstarted hw
  exited ht := h.life.close_mono ((h.exited ht).elim hw.exited id)
  stopped := h.stopped hw

theorem State.LifecycleWf.congr {s t : State} (h : CoreEq s t) (hw : s.LifecycleWf) : t.LifecycleWf where
  closeIff := by rw [h.close, h.life]; exact hw.closeIff
  config := by rw [h.life, h.dstate, h.queue, h.listeners, h.ports]; exact hw.config
  exited := by rw [h.dstate, h.close]; exact hw.exited
  stopped := by rw [h.life, h.readersClosed, h.listeners]; exact hw.stopped

/-- Settles O50: `CoreStep` by `CoreStep`, each promise from what the state before the step promises. -/
theorem stepKeepsLifecyclePromises : Obligations.StepKeepsLifecyclePromises := by
  unfold Obligations.StepKeepsLifecyclePromises
  intro s t h hw
  obtain ⟨s', u, hs, hu, ht⟩ := step_core h
  exact (hu.lifecycleWf (hw.congr hs)).congr ht

end Sys2Proof.Machine
end

section
/-! O47 (R66, R70). Every step keeps the canonical form of the bank: a step reaches the bank only by capability calls, and each call
keeps the form. -/

namespace Sys2Proof.Machine

/-- Settles O47: the bank after a step is the bank before it after some capability calls (`step_bank`), and calls in order keep the
canonical form (`Bank.calls_wf`). -/
theorem stepKeepsBankCanonical : Obligations.StepKeepsBankCanonical := by
  unfold Obligations.StepKeepsBankCanonical
  intro s t h hw
  obtain ⟨cs, hcs⟩ := step_bank h
  rw [hcs]
  exact Bank.calls_wf hw cs

end Sys2Proof.Machine
end

section
/-! O1, O2, O3, O4 (R82, R90, R93, R94, R102, R103). The decoder and the encoder invert each other: a code byte selects its row and no
other, and after it each operand field is read as it was written. -/

namespace Sys2Proof

open Sys2Proof.Machine

/-! Reading the code byte. -/

/-- A byte that names no standard function is no row's code. -/
theorem ne_code_of_fnOfCode_eq_none {b : Byte} (h : fnOfCode b = none) (c : FnCode) : b ≠ c.code := by
  rintro rfl
  simp at h

/-- On the command port a row's code leaves the bytes after it to that row's operands. -/
@[simp] theorem decode_command_code (o : Opsel) (b : List Byte) : decode .command (o.code :: b) = Decode.operands o b := by
  simp [decode, Decode.command]

/-- On the command port a byte that is no row's code is the reserved selector, whatever follows (R103). -/
theorem decode_command_reserved {op : Byte} (h : opOfCode op = none) (rest : List Byte) :
    decode .command (op :: rest) = .ok (.reservedOpsel op) := by
  simp [decode, Decode.command, h]

/-- On the request port a byte that names no standard function is the unknown function (R94). -/
theorem decode_pdu_unknown {fc : Byte} (h : fnOfCode fc = none) (hdr : Header) (data : List Byte) :
    decode (.pdu hdr) (fc :: data) = .ok (.unknownFunction fc hdr data) := by
  simp [decode, Decode.pdu, h]

/-! Reading back the operand fields of two parts and more. -/

@[simp] theorem decode_request {req : Request} (h : req.sink.wf = true) : Decode.request (Encode.request req) = .ok req := by
  simp [Decode.request, Encode.request, decode_sink h, Except.bind, Except.map]

@[simp] theorem decode_startCount (mk : Word → Word → Instr) (start count : Word) :
    Decode.startCount mk (be16 start ++ be16 count) = .ok (mk start count) := by
  simp [Decode.startCount, Except.bind]

theorem decode_handler (fc : Byte) {h : Option HandlerId} (hw : (Instr.fnSet fc h).wf = true) :
    Decode.handler fc (Encode.handler h) = .ok (.fnSet fc h) := by
  cases h with
  | none => rfl
  | some id =>
    cases id with
    | custom k =>
      have hk : k < maxOperand := by simpa [Instr.wf, HandlerId.wf] using hw
      simp [Decode.handler, Encode.handler, Except.bind, decode_number_last hk]
    | _ => rfl

/-- RESP_BUILD's operands, the one string that stands before another operand and so has its length before it. -/
theorem decode_respBuild (e : Byte) {b rest : List Byte} {len : Nat} {req : Frame} (hn : Decode.number b = .ok (len, rest))
    (hle : len ≤ rest.length) (hf : Decode.frame (rest.drop len) = .ok req) :
    Decode.operands .respBuild (e :: b) = .ok (.respBuild req (rest.take len) e) := by
  simp [Decode.operands, hn, hle, hf, Except.bind, Except.map]

/-- Settles O1, by the rows of the table: the code byte selects the row (`decode_command_code`, and the function codes by computation),
and each operand field is read back by its own lemma. -/
theorem decodeOfEncode : Obligations.DecodeOfEncode := by
  unfold Obligations.DecodeOfEncode
  intro i hw
  cases i with
  | readCoils | readDiscreteInputs | readHoldingRegisters | readInputRegisters | writeSingleCoil | writeSingleRegister
  | writeMultipleCoils | writeMultipleRegisters => rfl
  | unknownFunction fc hdr data => exact decode_pdu_unknown (by simpa [Instr.wf] using hw) hdr data
  | reservedOpsel op => exact decode_command_reserved (by simpa [Instr.wf] using hw) []
  | exceptionResponse hdr fc e =>
    have h7 : fc.getLsbD 7 = true := hw
    simp [encode, decode, Decode.response, h7, Except.bind]
  | handle req | enqueue req =>
    have hs : req.sink.wf = true := hw
    simp [encode, Decode.operands, decode_request hs, Except.map]
  | route bytes sink =>
    have hs : sink.wf = true := hw
    simp [encode, Decode.operands, decode_sink hs, Except.map]
  | fnSet fc h => simp [encode, Decode.operands, decode_handler fc hw, Except.bind]
  | respBuild req payload e =>
    have hl : payload.length < maxOperand := of_decide_eq_true hw
    have hr := decode_respBuild e (req := req) (decode_number hl (payload ++ Encode.frame req)) (by simp) (by simp)
    rw [List.take_left] at hr
    exact (decode_command_code .respBuild _).trans hr
  | bankReadCoils | bankReadDiscreteInputs | bankReadHoldingRegisters | bankReadInputRegisters =>
    simp [encode, Decode.operands]
  | crcInit | crcUpdate | crc16 | crcCheck | bitsPack | bitsUnpack | rtuParse | rtuSerialize | tcpParse | tcpSerialize | excInject
  | fnLookup | close | bankWriteSingleCoil | bankWriteSingleRegister | bankWriteMultipleCoils | bankWriteMultipleRegisters =>
    simp [encode, Decode.operands, Except.bind, Except.map]

/-! What decodes, and from which bytes. -/

/-- What the operand decoder of an operation answers is well-formed, and its encoding is that operation's code and the bytes taken. -/
theorem wf_and_encode_of_operands {op : Opsel} {b : List Byte} {i : Instr} (h : Decode.operands op b = .ok i) :
    i.wf = true ∧ encode i = (.command, op.code :: b) := by
  cases op with
  | crcInit | close => obtain ⟨rfl, rfl⟩ := bytes_of_done h; exact ⟨rfl, rfl⟩
  | crc16 | crcCheck | rtuParse | tcpParse => cases h; exact ⟨rfl, rfl⟩
  | crcUpdate | fnLookup =>
    obtain ⟨⟨x, r⟩, hx, h⟩ := decoded_bind h
    obtain ⟨rfl, rfl⟩ := bytes_of_done h
    rw [bytes_of_byte hx]; exact ⟨rfl, rfl⟩
  | bitsPack => obtain ⟨v, hv, rfl⟩ := decoded_map h; rw [bytes_of_bits hv]; exact ⟨rfl, rfl⟩
  | bitsUnpack => obtain ⟨⟨n, r⟩, hn, rfl⟩ := decoded_map h; rw [bytes_of_word hn]; exact ⟨rfl, rfl⟩
  | rtuSerialize => obtain ⟨f, hf, rfl⟩ := decoded_map h; rw [bytes_of_rtuFrame hf]; exact ⟨rfl, rfl⟩
  | tcpSerialize => obtain ⟨f, hf, rfl⟩ := decoded_map h; rw [bytes_of_tcpFrame hf]; exact ⟨rfl, rfl⟩
  | excInject =>
    obtain ⟨⟨e, r⟩, he, h⟩ := decoded_bind h
    obtain ⟨f, hf, rfl⟩ := decoded_map h
    rw [bytes_of_byte he, bytes_of_frame hf]; exact ⟨rfl, rfl⟩
  | respBuild =>
    obtain ⟨⟨e, r⟩, he, h'⟩ := decoded_bind h
    obtain ⟨⟨len, r'⟩, hn, h''⟩ := decoded_bind h'
    obtain ⟨rfl, hlt⟩ := bytes_of_number hn
    simp only at h''
    split at h''
    · rename_i hle
      obtain ⟨f, hf, rfl⟩ := decoded_map h''
      have hlen : (r'.take len).length = len := List.length_take_of_le hle
      refine ⟨by simpa [Instr.wf, hlen] using hlt, ?_⟩
      rw [bytes_of_byte he]
      simp [encode, hlen, ← bytes_of_frame hf]
    · cases h''
  | handle | enqueue =>
    obtain ⟨q, hq, rfl⟩ := decoded_map h
    obtain ⟨rfl, hw⟩ := bytes_of_request hq
    exact ⟨hw, rfl⟩
  | route =>
    obtain ⟨⟨k, r⟩, hk, rfl⟩ := decoded_map h
    obtain ⟨rfl, hw⟩ := bytes_of_sink hk
    exact ⟨hw, rfl⟩
  | fnSet =>
    obtain ⟨⟨fc, r⟩, hfc, h⟩ := decoded_bind h
    obtain ⟨hd, rfl, rfl, hw⟩ := bytes_of_handler h
    rw [bytes_of_byte hfc]; exact ⟨hw, rfl⟩
  | bankReadCoils | bankReadDiscreteInputs | bankReadHoldingRegisters | bankReadInputRegisters =>
    obtain ⟨start, count, rfl, rfl⟩ := bytes_of_startCount h
    exact ⟨rfl, rfl⟩
  | bankWriteSingleCoil =>
    obtain ⟨⟨addr, r⟩, ha, h⟩ := decoded_bind h
    obtain ⟨⟨x, r'⟩, hx, h⟩ := decoded_bind h
    obtain ⟨v, hv, h⟩ := decoded_bind h
    obtain ⟨rfl, rfl⟩ := bytes_of_done h
    rw [bytes_of_word ha, bytes_of_byte hx, byte_of_bit hv]; exact ⟨rfl, rfl⟩
  | bankWriteSingleRegister =>
    obtain ⟨⟨addr, r⟩, ha, h⟩ := decoded_bind h
    obtain ⟨⟨v, r'⟩, hv, h⟩ := decoded_bind h
    obtain ⟨rfl, rfl⟩ := bytes_of_done h
    rw [bytes_of_word ha, bytes_of_word hv, List.append_nil]; exact ⟨rfl, rfl⟩
  | bankWriteMultipleCoils =>
    obtain ⟨⟨start, r⟩, hs, h⟩ := decoded_bind h
    obtain ⟨v, hv, rfl⟩ := decoded_map h
    rw [bytes_of_word hs, bytes_of_bits hv]; exact ⟨rfl, rfl⟩
  | bankWriteMultipleRegisters =>
    obtain ⟨⟨start, r⟩, hs, h⟩ := decoded_bind h
    obtain ⟨v, hv, rfl⟩ := decoded_map h
    rw [bytes_of_word hs, bytes_of_words hv]; exact ⟨rfl, rfl⟩

/-- What a request PDU decodes to is well-formed, and its encoding is that PDU on the port of its header. -/
theorem wf_and_encode_of_pdu {hdr : Header} {b : List Byte} {i : Instr} (h : Decode.pdu hdr b = .ok i) :
    i.wf = true ∧ encode i = (.pdu hdr, b) := by
  cases b with
  | nil => cases h
  | cons fc data =>
    cases hf : fnOfCode fc with
    | none =>
      simp only [Decode.pdu, hf] at h
      cases h
      exact ⟨by simp [Instr.wf, hf], rfl⟩
    | some c =>
      simp only [Decode.pdu, hf] at h
      rw [code_of_fnOfCode hf]
      cases c <;> cases h <;> exact ⟨rfl, rfl⟩

/-- What a response PDU decodes to is well-formed, and its encoding is that PDU on the port of its header. -/
theorem wf_and_encode_of_response {hdr : Header} {b : List Byte} {i : Instr} (h : Decode.response hdr b = .ok i) :
    i.wf = true ∧ encode i = (.response hdr, b) := by
  cases b with
  | nil => cases h
  | cons fc rest =>
    simp only [Decode.response] at h
    split at h
    · rename_i h7
      obtain ⟨⟨e, r⟩, he, h⟩ := decoded_bind h
      obtain ⟨rfl, rfl⟩ := bytes_of_done h
      rw [bytes_of_byte he]; exact ⟨h7, rfl⟩
    · cases h

/-- Settles O2, by the port, and on the command port by whether the first byte names an operation. -/
theorem encodeOfDecode : Obligations.EncodeOfDecode := by
  unfold Obligations.EncodeOfDecode
  intro port b i h
  cases port with
  | pdu hdr => obtain ⟨hw, he⟩ := wf_and_encode_of_pdu h; exact ⟨hw, .inl he⟩
  | response hdr => obtain ⟨hw, he⟩ := wf_and_encode_of_response h; exact ⟨hw, .inl he⟩
  | command =>
    cases b with
    | nil => cases h
    | cons op rest =>
      cases ho : opOfCode op with
      | none =>
        rw [decode_command_reserved ho] at h
        cases h
        exact ⟨by simp [Instr.wf, ho], .inr ⟨op, rest, rfl, rfl, rfl⟩⟩
      | some o =>
        rw [code_of_opOfCode ho, decode_command_code] at h
        rw [code_of_opOfCode ho]
        obtain ⟨hw, he⟩ := wf_and_encode_of_operands h
        exact ⟨hw, .inl he⟩

/-! Written-out words. -/

/-- Settles O3. On the request port the byte is the code of one of the eight standard functions, or differs from all of them; the words
of the other ports are closed computations. -/
theorem encodedWordsDecodeToTheirInstructions : Obligations.EncodedWordsDecodeToTheirInstructions := by
  unfold Obligations.EncodedWordsDecodeToTheirInstructions
  refine ⟨fun hdr fc data => ?_, rfl, rfl, rfl, rfl, rfl, rfl, rfl, rfl, rfl⟩
  cases hf : fnOfCode fc with
  | some c => rw [code_of_fnOfCode hf]; cases c <;> rfl
  | none =>
    have hne := ne_code_of_fnOfCode_eq_none hf
    rw [decode_pdu_unknown hf]
    simp [show fc ≠ 1#8 from hne .readCoils, show fc ≠ 2#8 from hne .readDiscreteInputs,
      show fc ≠ 3#8 from hne .readHoldingRegisters, show fc ≠ 4#8 from hne .readInputRegisters,
      show fc ≠ 5#8 from hne .writeSingleCoil, show fc ≠ 6#8 from hne .writeSingleRegister,
      show fc ≠ 15#8 from hne .writeMultipleCoils, show fc ≠ 16#8 from hne .writeMultipleRegisters]

/-- Settles O4: a byte that named an operation would be that operation's code, and all 26 are in the list. -/
theorem reservedSelectorIsRefused : Obligations.ReservedSelectorIsRefused := by
  unfold Obligations.ReservedSelectorIsRefused
  intro op rest s hop
  refine ⟨decode_command_reserved ?_ rest, rfl⟩
  cases ho : opOfCode op with
  | none => rfl
  | some o =>
    rw [code_of_opOfCode ho] at hop
    exact absurd (by cases o <;> decide) hop

end Sys2Proof
end

section
/-! O15, O22 (R90, R94, R178, R179, R190, R192, R193). What a response keeps of its request, and the request instructions: HANDLE, the
dispatcher's request arm and the commands that stand for it, each as an equation in the words of the statements (`Spec`). -/

namespace Sys2Proof

/-- A frame is made of its header, function byte and Data. -/
@[simp] theorem Frame.frame_self (f : Frame) : f.header.frame f.function f.data = f := by cases f <;> rfl

/-- RESP_BUILD in the words of the statements. -/
theorem buildResponse_eq_response (f : Frame) (r : Machine.HandlerResult) :
    buildResponse f r.payload r.exc = Spec.response f r := by
  simpa [Spec.response] using buildResponse_frame f.header f.function f.data r.payload r.exc

namespace Machine

/-! Responses as commands. -/

theorem exec_excInject_frame (hdr : Header) (fn e : Byte) (data : List Byte) (s : State) :
    exec (.excInject (hdr.frame fn data) e) s = .next { s with result := .frame (hdr.frame (fn ||| 0x80#8) [e]) } := by
  simp [exec, execExcInject, injectException, State.report]

theorem exec_respBuild_frame (hdr : Header) (fn e : Byte) (data payload : List Byte) (s : State) :
    exec (.respBuild (hdr.frame fn data) payload e) s =
      .next { s with result := .frame (if e = 0#8 then hdr.frame fn payload else hdr.frame (fn ||| 0x80#8) [e]) } := by
  simp only [exec, execRespBuild, buildResponse_frame, State.report]

/-- Settles O15: each clause is the equation of its command at one kind of header. -/
theorem responsesKeepTheTransportHeader : Obligations.ResponsesKeepTheTransportHeader := by
  unfold Obligations.ResponsesKeepTheTransportHeader
  exact ⟨fun a fn e data => exec_excInject_frame (.rtu a) fn e data,
    fun x p d fn e data => exec_excInject_frame (.tcp x p d) fn e data,
    fun a fn e data payload => exec_respBuild_frame (.rtu a) fn e data payload,
    fun x p d fn e data payload => exec_respBuild_frame (.tcp x p d) fn e data payload,
    fun _ _ _ _ => rfl⟩

/-! HANDLE and the request arm. -/

theorem handlerResult_eq_handling (s : State) (f : Frame) : handlerResult s f = Spec.handling s f := by
  unfold handlerResult Spec.handling
  cases s.slot f.function <;> rfl

/-- SERIALIZE of a frame that its framing cannot carry (R175). -/
theorem serialize_of_not_fits {q : Frame} (h : Spec.fits q = false) (s : State) : serialize q s = none := by
  cases q with
  | rtu f => cases h
  | tcp f =>
    have hl : 65535 < f.data.length + 2 := Nat.lt_of_not_le (of_decide_eq_false h)
    simp [serialize, serializeTcp, hl]

/-- HANDLE (R193): the response's bytes, or the fault when its framing cannot carry it. -/
theorem handleRequest_eq (req : Request) (s : State) :
    handleRequest req s =
      if Spec.fits (Spec.response req.frame (Spec.handling s req.frame)) = true
      then .ok (Spec.wire (Spec.response req.frame (Spec.handling s req.frame)), Spec.handled s req.frame)
      else .error .tcpResponseTooLong := by
  unfold handleRequest Spec.handled
  simp only [handlerResult_eq_handling, buildResponse_eq_response]
  cases hq : Spec.response req.frame (Spec.handling s req.frame) with
  | rtu q => rfl
  | tcp q =>
    by_cases hl : q.data.length + 2 ≤ 65535
    · simp [serialize, serializeTcp, Spec.fits, Spec.wire, hl, Nat.not_lt.2 hl, State.setBank]
    · simp [serialize_of_not_fits, Spec.fits, hl]

/-- The request arm (R192 (a)): HANDLE, the queue behind the request, and `D_WRITE`. -/
theorem takeRequest_eq (req : Request) (rest : List Request) (s : State) :
    takeRequest req rest s =
      if Spec.fits (Spec.response req.frame (Spec.handling s req.frame)) = true
      then .ok (Spec.wire (Spec.response req.frame (Spec.handling s req.frame)), Spec.taken s req rest)
      else .error .tcpResponseTooLong := by
  rw [takeRequest, handleRequest_eq]
  cases Spec.fits (Spec.response req.frame (Spec.handling s req.frame)) <;> rfl

theorem State.nextRequest_of_idle {s : State} {req : Request} {rest : List Request} (hd : s.dstate = .idle)
    (hq : s.queue = req :: rest) : s.nextRequest = some (req, rest) := by
  simp [State.nextRequest, hd, hq]

/-- A command that stands for the request arm, where the dispatcher takes the request it wants. -/
theorem asDispatcher_of_wanted {wanted : Request → Bool} (shown : List Byte → Result) {s : State} {req : Request}
    {rest : List Request} (hd : s.dstate = .idle) (hq : s.queue = req :: rest) (hw : wanted req = true) :
    asDispatcher wanted shown s =
      .next (if Spec.fits (Spec.response req.frame (Spec.handling s req.frame)) = true
        then { Spec.taken s req rest with result := shown (Spec.wire (Spec.response req.frame (Spec.handling s req.frame))) }
        else { s with fault := some .tcpResponseTooLong }) := by
  simp only [asDispatcher, State.nextRequest_of_idle hd hq, hw, if_true, takeRequest_eq]
  cases Spec.fits (Spec.response req.frame (Spec.handling s req.frame)) <;> rfl

/-- A command that stands for the request arm waits where the dispatcher is not at a request that it wants. -/
theorem asDispatcher_of_unwanted {wanted : Request → Bool} (shown : List Byte → Result) {s : State}
    (h : s.dstate ≠ .idle ∨ ∀ req ∈ s.queue.head?, wanted req = false) :
    asDispatcher wanted shown s = .next { s with result := .waiting } := by
  unfold asDispatcher
  cases hn : s.nextRequest with
  | none => rfl
  | some r =>
    obtain ⟨hd, hq⟩ := State.nextRequest_eq_some hn
    have hw : wanted r.1 = false := by
      rcases h with h | h
      · exact absurd hd h
      · exact h r.1 (by simp [hq])
    simp [hw, State.report]

/-! The request instructions. -/

/-- Every request instruction serves the frame of its header, function byte and Data. -/
theorem exec_of_mem_requests {hdr : Header} {data : List Byte} {code : Byte} {p : Instr × Byte}
    (hp : p ∈ Spec.requests hdr data code) (s : State) : exec p.1 s = serveFrame (hdr.frame p.2 data) s := by
  simp only [Spec.requests, List.mem_cons, List.not_mem_nil, or_false] at hp
  rcases hp with rfl | rfl | rfl | rfl | rfl | rfl | rfl | rfl | rfl <;> rfl

/-- A request served, in the words of the statements. -/
theorem serveFrame_eq (f : Frame) (s : State) :
    serveFrame f s =
      if s.life = .config then .next { s with bank := (Spec.handling s f).bank, result := Spec.shown s f }
      else asDispatcher (fun req => decide (req.frame = f)) (fun _ => Spec.shown s f) s := by
  simp only [serveFrame, handlerResult_eq_handling, buildResponse_eq_response]
  rfl

/-- Settles O22: each request instruction serves its frame, before `start()` by the handler of its slot (IllegalFunction for an empty
one), afterwards as the dispatcher's request arm. -/
theorem requestsCompleteByTheirSlot : Obligations.RequestsCompleteByTheirSlot := by
  unfold Obligations.RequestsCompleteByTheirSlot
  intro hdr data code p hp f
  have hx : ∀ s, exec p.1 s = serveFrame f s := exec_of_mem_requests hp
  have hfn : f.function = p.2 := Header.frame_function ..
  have hhd : f.header = hdr := Header.frame_header ..
  clear_value f
  simp only [hx]
  refine ⟨fun s hl => ?_, fun s hl hs => ?_, fun s req rest hl hd hq hf => ?_, fun s hl hw => ?_⟩
  · rw [serveFrame_eq, if_pos hl]
  · have hr : Spec.handling s f = ⟨[], 1#8, s.bank⟩ := by simp [Spec.handling, hfn, hs]
    simp [serveFrame_eq, hl, Spec.shown, Spec.response, hr, hfn, hhd]
  · subst hf
    rw [serveFrame_eq, if_neg hl, asDispatcher_of_wanted _ hd hq (decide_eq_true rfl)]
  · rw [serveFrame_eq, if_neg hl, asDispatcher_of_unwanted _ (by simpa using hw)]

end Machine

end Sys2Proof
end

section
/-! O5, O6, O7, O8 (R111 to R114, R116, R117). The CRC: a shift step is linear over XOR and takes no word but 0 to 0, so sixteen of them
take the register XOR the trailer to 0 exactly when the two are equal. -/

namespace Sys2Proof.Machine

/-! The loop of R112. -/

/-- The low bit of a word, as R112 tests it. -/
theorem and_one_eq_one_iff (c : Word) : c &&& 1#16 = 1#16 ↔ c.getLsbD 0 = true := by
  rw [BitVec.and_one_eq_setWidth_ofBool_getLsbD]
  cases c.getLsbD 0 <;> decide

theorem shiftStep_eq_crcShift : Spec.shiftStep = crcShift := by
  funext c
  simp only [Spec.shiftStep, crcShift, and_one_eq_one_iff]

theorem repeat_crcShift (n : Nat) (c : Word) : Nat.repeat crcShift n c = crcShifts n c := by
  induction n with
  | zero => rfl
  | succ n ih => rw [Nat.repeat, ih, crcShifts_succ]

theorem crcByte_eq_crcFold (c : Word) (b : Byte) : Spec.crcByte c b = crcFold c b := by
  rw [Spec.crcByte, shiftStep_eq_crcShift, repeat_crcShift, crcFold]

/-! The shift register. -/

theorem crcShifts_add (m n : Nat) (c : Word) : crcShifts (m + n) c = crcShifts n (crcShifts m c) := by
  induction n with
  | zero => rfl
  | succ n ih => rw [← Nat.add_assoc, crcShifts_succ, ih, ← crcShifts_succ]

/-- A shift step is linear over XOR. -/
theorem crcShift_xor (a b : Word) : crcShift (a ^^^ b) = crcShift a ^^^ crcShift b := by
  simp only [crcShift, BitVec.getLsbD_xor, BitVec.ushiftRight_xor_distrib]
  cases a.getLsbD 0 <;> cases b.getLsbD 0
  case false.false => simp only [Bool.xor_false, Bool.false_eq_true, if_false]
  case false.true =>
    simp only [Bool.xor_true, Bool.not_false, Bool.false_eq_true, if_true, if_false]
    ac_rfl
  case true.false =>
    simp only [Bool.xor_false, Bool.false_eq_true, if_true, if_false]
    ac_rfl
  case true.true =>
    calc (a >>> 1) ^^^ (b >>> 1)
        = (a >>> 1) ^^^ (b >>> 1) ^^^ (0xA001#16 ^^^ 0xA001#16) := by rw [BitVec.xor_self, BitVec.xor_zero]
      _ = (a >>> 1) ^^^ 0xA001#16 ^^^ ((b >>> 1) ^^^ 0xA001#16) := by ac_rfl

theorem crcShifts_xor (n : Nat) (a b : Word) : crcShifts n (a ^^^ b) = crcShifts n a ^^^ crcShifts n b := by
  induction n generalizing a b with
  | zero => rfl
  | succ n ih => rw [crcShifts, crcShift_xor, ih, crcShifts, crcShifts]

/-- The bit shifted out comes back as the top bit, for R112's constant has its top bit set. -/
theorem msb_crcShift (c : Word) : (crcShift c).msb = c.getLsbD 0 := by
  unfold crcShift
  split
  next h => rw [h, BitVec.msb_xor, BitVec.msb_ushiftRight]; rfl
  next h => rw [Bool.eq_false_of_not_eq_true h, BitVec.msb_ushiftRight]; rfl

theorem eq_zero_of_low_zero_of_shift_zero {c : Word} (hlow : c.getLsbD 0 = false) (hshift : c >>> 1 = 0#16) : c = 0#16 := by
  apply BitVec.eq_of_getLsbD_eq
  intro i _
  cases i with
  | zero => exact hlow
  | succ i => simpa [Nat.add_comm] using congrArg (·.getLsbD i) hshift

theorem crcShift_eq_zero_iff {c : Word} : crcShift c = 0#16 ↔ c = 0#16 := by
  constructor
  · intro h
    have hlow : c.getLsbD 0 = false := by rw [← msb_crcShift, h]; rfl
    rw [crcShift, hlow] at h
    exact eq_zero_of_low_zero_of_shift_zero hlow h
  · rintro rfl
    decide

theorem crcShifts_eq_zero_iff (n : Nat) {c : Word} : crcShifts n c = 0#16 ↔ c = 0#16 := by
  induction n generalizing c with
  | zero => rfl
  | succ n ih => rw [crcShifts, ih, crcShift_eq_zero_iff]

/-- Eight shift steps move a high byte down to the low byte. -/
theorem crcShifts_highByte (b : Byte) : crcShifts 8 (b.setWidth 16 <<< 8) = b.setWidth 16 := by
  rw [crcShifts_of_low_zero fun i h => by simp [h]]
  apply BitVec.eq_of_getLsbD_eq
  intro i hi
  by_cases h : i < 8
  · simp [hi, show 8 + i < 16 by omega]
  · simp [BitVec.getLsbD_of_ge b i (Nat.le_of_not_lt h)]

/-- A 16-bit value is the XOR of its two bytes in place, which share no bit. -/
theorem ofHiLo_eq_xor (hi lo : Byte) : ofHiLo hi lo = lo.setWidth 16 ^^^ (hi.setWidth 16 <<< 8) := by
  apply BitVec.eq_of_getLsbD_eq
  intro i _
  by_cases h : i < 8
  · simp [ofHiLo, h]
  · simp [ofHiLo, h, BitVec.getLsbD_of_ge lo i (Nat.le_of_not_lt h)]

/-- Two bytes folded one after the other are the 16-bit value with the first as its low byte, shifted out. -/
theorem crcFold_crcFold (c : Word) (lo hi : Byte) : crcFold (crcFold c lo) hi = crcShifts 16 (c ^^^ ofHiLo hi lo) := by
  calc crcFold (crcFold c lo) hi
      = crcShifts 8 (crcShifts 8 (c ^^^ lo.setWidth 16) ^^^ crcShifts 8 (hi.setWidth 16 <<< 8)) := by
        rw [crcFold, crcFold, crcShifts_highByte]
    _ = crcShifts 8 (crcShifts 8 (c ^^^ ofHiLo hi lo)) := by rw [← crcShifts_xor, BitVec.xor_assoc, ofHiLo_eq_xor]
    _ = crcShifts 16 (c ^^^ ofHiLo hi lo) := (crcShifts_add 8 8 _).symm

/-! The residue. -/

theorem crcOf_append_le16 (p : List Byte) (v : Word) : crcOf (p ++ le16 v) = crcShifts 16 (crcOf p ^^^ v) := by
  rw [crcOf_append_list, le16, List.foldl_cons, List.foldl_cons, List.foldl_nil, crcFold_crcFold, ofHiLo_hiByte_loByte]

theorem crcOf_append_le16_eq_zero_iff {p : List Byte} {v : Word} : crcOf (p ++ le16 v) = 0#16 ↔ crcOf p = v := by
  rw [crcOf_append_le16, crcShifts_eq_zero_iff, BitVec.xor_eq_zero_iff]

/-- A string of at least two bytes has CRC 0 exactly when its trailer is the CRC of the bytes before it. -/
theorem crcOf_eq_zero_iff {b : List Byte} (h : 2 ≤ b.length) : crcOf b = 0#16 ↔ crcOf (crcPrefix b) = crcTrailer b := by
  rw [← crcOf_append_le16_eq_zero_iff (v := crcTrailer b), crcPrefix_append_crcTrailer h]

/-! The CRC commands. -/

theorem exec_crcInit (s : State) : exec .crcInit s = .next ((s.loadCrc crcStart).report .none) := rfl

theorem exec_crcUpdate_of_loaded {s : State} (h : s.crcLoaded = true) (b : Byte) :
    exec (.crcUpdate b) s = .next ((s.loadCrc (crcFold s.crc b)).report .none) := if_pos h

theorem exec_crcUpdate_of_not_loaded {s : State} (h : s.crcLoaded = false) (b : Byte) :
    exec (.crcUpdate b) s = .next (s.raise .crcUninitialised) := by
  simp [exec, execCrcUpdate, h]

theorem exec_crcCheck_of_short {adu : List Byte} (h : adu.length < 2) (s : State) :
    exec (.crcCheck adu) s = .next (s.report (.crcOk false)) := if_pos h

theorem exec_crcCheck_of_two_le {adu : List Byte} (h : 2 ≤ adu.length) (s : State) :
    exec (.crcCheck adu) s =
      .next ((s.loadCrc (crcOf (crcPrefix adu))).report (.crcOk (decide (crcOf (crcPrefix adu) = crcTrailer adu)))) :=
  if_neg (Nat.not_lt.2 h)

/-- Settles O8: the CRC of a string and two more bytes is sixteen shift steps of its CRC XOR their value, and they leave 0 of 0 only. -/
theorem crcResidueIsZero : Obligations.CrcResidueIsZero := by
  unfold Obligations.CrcResidueIsZero
  refine ⟨fun b => crcOf_append_le16_eq_zero_iff.2 rfl, fun adu s h => ⟨_, exec_crcCheck_of_two_le h s, ?_⟩⟩
  simp only [State.report_result, crcOf_eq_zero_iff h]

/-- CRC_UPDATE of each byte of a string in order, from a register that something has written. -/
theorem execAll_crcUpdate (buf : List Byte) (c : Word) (s : State) :
    execAll (buf.map .crcUpdate) ((s.loadCrc c).report .none) = .next ((s.loadCrc (buf.foldl crcFold c)).report .none) := by
  induction buf generalizing c with
  | nil => rfl
  | cons b buf ih =>
    rw [List.map_cons, execAll, exec_crcUpdate_of_loaded rfl]
    exact ih (crcFold c b)

/-- Settles O6: the register after CRC_INIT and the updates is the fold of the bytes from the initial value. -/
theorem crc16IsInitThenUpdates : Obligations.Crc16IsInitThenUpdates := by
  unfold Obligations.Crc16IsInitThenUpdates
  refine fun buf s => ⟨rfl, ?_⟩
  rw [execAll, exec_crcInit]
  exact execAll_crcUpdate buf crcStart s

/-- Settles O5: the fold of the model is the loop of R112. -/
theorem crcInitAndUpdate : Obligations.CrcInitAndUpdate := by
  unfold Obligations.CrcInitAndUpdate
  refine ⟨exec_crcInit, fun b s h => ?_, fun b s h => exec_crcUpdate_of_not_loaded h b⟩
  rw [exec_crcUpdate_of_loaded h, crcByte_eq_crcFold]
  simp only [State.loadCrc, State.report, h]

/-- Settles O7, by whether there are two trailing bytes to compare. -/
theorem crcCheckComparesTrailer : Obligations.CrcCheckComparesTrailer := by
  unfold Obligations.CrcCheckComparesTrailer
  intro adu s
  rcases Nat.lt_or_ge adu.length 2 with h | h
  · refine ⟨s.crc, s.crcLoaded, ?_⟩
    simp [exec_crcCheck_of_short h, State.report, Nat.not_le.2 h]
  · refine ⟨crcOf (crcPrefix adu), true, ?_⟩
    have hi : adu.length - 1 = adu.length - 2 + 1 := by omega
    simp only [exec_crcCheck_of_two_le h, h, true_and, hi]
    rfl

end Sys2Proof.Machine
end

section
/-! O9, O10 (R122 to R124). The bit codec: the bits of a packed string are its bits and then padding, and byte strings of one length
with the same bits are the same, so that packing and unpacking undo each other. -/

namespace Sys2Proof.Machine

/-! The bits of a byte string. -/

theorem bitOf_eq_packedBit : Spec.bitOf = packedBit := rfl

/-- Bit `j` of byte `k` is bit `8·k + j` of the byte string. -/
theorem packedBit_eq_getLsbD (bytes : List Byte) (k : Nat) {j : Nat} (hj : j < 8) :
    packedBit bytes (8 * k + j) = (byteAt bytes k).getLsbD j := by
  rw [packedBit, Nat.mul_add_div (by decide), Nat.mul_add_mod, Nat.div_eq_of_lt hj, Nat.mod_eq_of_lt hj, Nat.add_zero]

/-- Two byte strings of one length that have the same bits are equal. -/
theorem eq_of_packedBit_eq {b c : List Byte} (hl : b.length = c.length)
    (h : ∀ i < 8 * b.length, packedBit b i = packedBit c i) : b = c := by
  refine List.ext_getElem hl fun k hb hc => BitVec.eq_of_getLsbD_eq fun j hj => ?_
  have hbit := h (8 * k + j) (by omega)
  simpa [packedBit_eq_getLsbD _ k hj, byteAt, hb, hc] using hbit

/-- Every bit of a packed string, the padding included: it reads as a bit beyond the end of the string. -/
theorem packedBit_packBits_of_lt {bits : List Bool} {i : Nat} (hi : i < 8 * (packBits bits).length) :
    packedBit (packBits bits) i = bits.getD i false := by
  rw [packBits_length] at hi
  rw [packedBit, byteAt_packBits _ (by omega), packByte_getLsbD _ _ (by omega), Nat.div_add_mod]

/-! The round trips. -/

/-- Unpacking what was packed (R124). -/
theorem unpackBits_packBits (bits : List Bool) : unpackBits (packBits bits) bits.length = some bits := by
  refine unpackBits_eq_some.2 ⟨Nat.le_of_eq (packBits_length bits).symm, List.ext_getElem (by simp) fun i hi _ => ?_⟩
  simp [packedBit_packBits bits hi, hi]

/-- Packing what was unpacked (R124), from bytes whose padding bits are 0. -/
theorem packBits_unpacked {bytes : List Byte} {n : Nat} (hl : bytes.length = ceilDiv8 n)
    (hpad : ∀ i, n ≤ i → i < 8 * bytes.length → packedBit bytes i = false) :
    packBits ((List.range n).map (packedBit bytes)) = bytes := by
  have hlen : (packBits ((List.range n).map (packedBit bytes))).length = bytes.length := by simp [hl]
  refine eq_of_packedBit_eq hlen fun i hi => ?_
  rw [packedBit_packBits_of_lt hi]
  rcases Nat.lt_or_ge i n with h | h
  · simp [h]
  · simp [h, hpad i h (hlen ▸ hi)]

/-! The commands. -/

theorem exec_bitsPack (bits : List Bool) (s : State) : exec (.bitsPack bits) s = .next (s.report (.bytes (packBits bits))) := rfl

theorem exec_bitsUnpack (bytes : List Byte) (n : Word) (s : State) :
    exec (.bitsUnpack bytes n) s = .next (s.report (.unpacked (unpackBits bytes n.toNat))) := rfl

/-- Settles O9: the length and the bits of a packed string, and the definition of unpacking. -/
theorem bitCodecPlacesBitIOfByteIDivEight : Obligations.BitCodecPlacesBitIOfByteIDivEight := by
  unfold Obligations.BitCodecPlacesBitIOfByteIDivEight
  exact ⟨fun bits s => ⟨packBits bits, exec_bitsPack bits s, packBits_length bits, fun _ hi => packedBit_packBits_of_lt hi⟩,
    exec_bitsUnpack⟩

/-- Settles O10, by the two round trips of the codec. -/
theorem bitCodecRoundTrips : Obligations.BitCodecRoundTrips := by
  unfold Obligations.BitCodecRoundTrips
  refine ⟨fun bits s hl => ⟨packBits bits, _, _, exec_bitsPack bits s, rfl, exec_bitsUnpack _ _ _, ?_⟩,
    fun bytes n s hl hpad => ⟨(List.range n.toNat).map (packedBit bytes), _, _, exec_bitsUnpack bytes n s, ?_,
      exec_bitsPack _ _, ?_⟩⟩
  · have hn : (BitVec.ofNat 16 bits.length).toNat = bits.length := Nat.mod_eq_of_lt (by omega)
    rw [State.report_result, hn, unpackBits_packBits]
  · rw [State.report_result, unpackBits_eq_some.2 ⟨Nat.le_of_eq hl.symm, rfl⟩]
  · rw [State.report_result, packBits_unpacked hl hpad]

end Sys2Proof.Machine
end

section
/-! O23 to O26, O28, O29 (R125 to R138). The standard handlers: each makes its checks and then one bank call, and what follows of the
answer, its exception code and its size. -/

namespace Sys2Proof.Machine

/-- A handler that answers `r` where its checks (R136) end in Success, and else raises the exception code `e` they end in. -/
def checked (e : Byte) (bank : Bank) (r : HandlerResult) : HandlerResult := if e ≠ excSuccess then raiseModbus e bank else r

@[simp] theorem checked_success (bank : Bank) (r : HandlerResult) : checked excSuccess bank r = r := rfl

/-- The first check of several: it fails with its own exception code, else the others decide. -/
theorem checked_ite {c : Prop} [Decidable c] {e : Byte} (he : e ≠ excSuccess) (rest : Byte) (bank : Bank) (r : HandlerResult) :
    checked (if c then e else rest) bank r = if c then Spec.failed e bank else checked rest bank r := by
  by_cases hc : c
  · simp only [hc, if_true]; exact if_pos he
  · simp only [hc, if_false]

/-- A handler succeeds when its checks and its answer do. -/
theorem checked_exc_eq_success {e : Byte} {bank : Bank} {r : HandlerResult} :
    (checked e bank r).exc = excSuccess ↔ e = excSuccess ∧ r.exc = excSuccess := by
  by_cases he : e = excSuccess
  · simp [he]
  · simp [checked, raiseModbus, he]

/-! The handlers as checks and an answer. -/

theorem runHandler_stdReadCoils (p : Params) (bank : Bank) (f : Frame) :
    runHandler p .stdReadCoils bank f = checked (readCheck p Config.maxReadBits f.data) bank
      (bitsAnswer p (opCount f.data) (bank.readCoils (opRegister f.data) (opCount f.data))) := rfl

theorem runHandler_stdReadDiscreteInputs (p : Params) (bank : Bank) (f : Frame) :
    runHandler p .stdReadDiscreteInputs bank f = checked (readCheck p Config.maxReadBits f.data) bank
      (bitsAnswer p (opCount f.data) (bank.readDiscreteInputs (opRegister f.data) (opCount f.data))) := rfl

theorem runHandler_stdReadHoldingRegisters (p : Params) (bank : Bank) (f : Frame) :
    runHandler p .stdReadHoldingRegisters bank f = checked (readCheck p Config.maxReadRegs f.data) bank
      (wordsAnswer p (opCount f.data) (Config.absentWord .stdReadHoldingRegisters bank f.data)
        (bank.readHoldingRegisters (opRegister f.data) (opCount f.data))) := rfl

theorem runHandler_stdReadInputRegisters (p : Params) (bank : Bank) (f : Frame) :
    runHandler p .stdReadInputRegisters bank f = checked (readCheck p Config.maxReadRegs f.data) bank
      (wordsAnswer p (opCount f.data) (Config.absentWord .stdReadInputRegisters bank f.data)
        (bank.readInputRegisters (opRegister f.data) (opCount f.data))) := rfl

theorem runHandler_stdWriteSingleCoil (p : Params) (bank : Bank) (f : Frame) :
    runHandler p .stdWriteSingleCoil bank f = checked (singleWriteCheck f.data) bank
      (echoAnswer f.data (bank.writeSingleCoil (opRegister f.data) (opCoilValue f.data))) := rfl

theorem runHandler_stdWriteSingleRegister (p : Params) (bank : Bank) (f : Frame) :
    runHandler p .stdWriteSingleRegister bank f = checked (singleWriteCheck f.data) bank
      (echoAnswer f.data (bank.writeSingleRegister (opRegister f.data) (opValue f.data))) := rfl

theorem runHandler_stdWriteMultipleRegisters (p : Params) (bank : Bank) (f : Frame) :
    runHandler p .stdWriteMultipleRegisters bank f = checked (registersWriteCheck f.data) bank
      (echoAnswer f.data (bank.writeMultipleRegisters (opRegister f.data) (opWords (opPayload f.data) (opCount f.data).toNat))) := rfl

/-! When the checks succeed (R136). -/

theorem countAboveLimit_eq_true {p : Params} {limit : Nat} {count : Word} :
    countAboveLimit p limit count = true ↔ p.countLimits = .enforceUpper ∧ limit < count.toNat := by
  unfold countAboveLimit
  cases p.countLimits <;> simp

theorem rangePassesEnd_eq_true {start : Word} {n : Nat} :
    rangePassesEnd start n = true ↔ Config.addrSpaceSize < start.toNat + n := decide_eq_true_iff

/-- The first check of several passes, and the others do. -/
theorem ite_eq_success {c : Prop} [Decidable c] {e : Byte} (he : e ≠ excSuccess) (rest : Byte) :
    (if c then e else rest) = excSuccess ↔ ¬c ∧ rest = excSuccess := by
  by_cases hc : c <;> simp [hc, he]

theorem dataTooShort_eq_true {needed : Nat} {data : List Byte} : dataTooShort needed data = true ↔ data.length < needed :=
  decide_eq_true_iff

theorem readCheck_eq_success {p : Params} {limit : Nat} {data : List Byte} :
    readCheck p limit data = excSuccess ↔ 4 ≤ data.length ∧
      ¬(p.countLimits = .enforceUpper ∧ limit < (opCount data).toNat) ∧
      (opRegister data).toNat + (opCount data).toNat ≤ Config.addrSpaceSize := by
  unfold readCheck
  rw [ite_eq_success (by decide), ite_eq_success (by decide), ite_eq_success (by decide)]
  simp only [dataTooShort_eq_true, countAboveLimit_eq_true, rangePassesEnd_eq_true, Nat.not_lt, and_true]

theorem singleWriteCheck_eq_success {data : List Byte} : singleWriteCheck data = excSuccess ↔ 4 ≤ data.length := by
  unfold singleWriteCheck
  rw [ite_eq_success (by decide)]
  simp only [dataTooShort_eq_true, Nat.not_lt, and_true]

theorem coilsWriteCheck_eq_success {data : List Byte} :
    coilsWriteCheck data = excSuccess ↔ 5 ≤ data.length ∧
      (opRegister data).toNat + (opCount data).toNat ≤ Config.addrSpaceSize ∧
      ceilDiv8 (opCount data).toNat ≤ (opPayload data).length := by
  unfold coilsWriteCheck
  rw [ite_eq_success (by decide), ite_eq_success (by decide), ite_eq_success (by decide)]
  simp only [dataTooShort_eq_true, rangePassesEnd_eq_true, coilsPayloadShort, decide_eq_true_iff, Nat.not_lt, and_true]

theorem registersWriteCheck_eq_success {data : List Byte} :
    registersWriteCheck data = excSuccess ↔ 5 ≤ data.length ∧
      (opRegister data).toNat + (opCount data).toNat ≤ Config.addrSpaceSize ∧
      (opPayload data).length = 2 * (opCount data).toNat := by
  unfold registersWriteCheck
  rw [ite_eq_success (by decide), ite_eq_success (by decide), ite_eq_success (by decide)]
  simp only [dataTooShort_eq_true, rangePassesEnd_eq_true, registersPayloadWrong, bne_iff_ne, Nat.not_lt, not_not, and_true]

/-- The length check guards BITS_UNPACK (R134), so write-multiple-coils too is its checks and one bank call. -/
theorem runHandler_stdWriteMultipleCoils (p : Params) (bank : Bank) (f : Frame) :
    runHandler p .stdWriteMultipleCoils bank f = checked (coilsWriteCheck f.data) bank
      (echoAnswer f.data (bank.writeMultipleCoils (opRegister f.data)
        ((List.range (opCount f.data).toNat).map (packedBit (opPayload f.data))))) := by
  by_cases he : coilsWriteCheck f.data = excSuccess
  · obtain ⟨_, _, hlen⟩ := coilsWriteCheck_eq_success.1 he
    simp [runHandler, stdWriteMultipleCoils, he, unpackBits_eq_some.2 ⟨hlen, rfl⟩]
  · simp [runHandler, stdWriteMultipleCoils, checked, he]

/-! The checks in the words of the statements. -/

theorem checked_readCheck (p : Params) (limit : Nat) (data : List Byte) (bank : Bank) (r : HandlerResult) :
    checked (readCheck p limit data) bank r =
      if data.length < 4 then Spec.failed 3#8 bank
      else if p.countLimits = .enforceUpper ∧ limit < (beWord data 2).toNat then Spec.failed 3#8 bank
      else if 65536 < (beWord data 0).toNat + (beWord data 2).toNat then Spec.failed 2#8 bank
      else r := by
  unfold readCheck
  rw [checked_ite (by decide), checked_ite (by decide), checked_ite (by decide), checked_success]
  simp only [dataTooShort_eq_true, countAboveLimit_eq_true, rangePassesEnd_eq_true]
  rfl

theorem checked_singleWriteCheck (data : List Byte) (bank : Bank) (r : HandlerResult) :
    checked (singleWriteCheck data) bank r = if data.length < 4 then Spec.failed 3#8 bank else r := by
  unfold singleWriteCheck
  rw [checked_ite (by decide), checked_success]
  simp only [dataTooShort_eq_true]

theorem checked_coilsWriteCheck (data : List Byte) (bank : Bank) (r : HandlerResult) :
    checked (coilsWriteCheck data) bank r =
      if data.length < 5 then Spec.failed 3#8 bank
      else if 65536 < (beWord data 0).toNat + (beWord data 2).toNat then Spec.failed 2#8 bank
      else if (data.drop 5).length < ((beWord data 2).toNat + 7) / 8 then Spec.failed 3#8 bank
      else r := by
  unfold coilsWriteCheck
  rw [checked_ite (by decide), checked_ite (by decide), checked_ite (by decide), checked_success]
  simp only [dataTooShort_eq_true, coilsPayloadShort, decide_eq_true_iff, rangePassesEnd_eq_true]
  rfl

theorem checked_registersWriteCheck (data : List Byte) (bank : Bank) (r : HandlerResult) :
    checked (registersWriteCheck data) bank r =
      if data.length < 5 then Spec.failed 3#8 bank
      else if 65536 < (beWord data 0).toNat + (beWord data 2).toNat then Spec.failed 2#8 bank
      else if (data.drop 5).length ≠ 2 * (beWord data 2).toNat then Spec.failed 3#8 bank
      else r := by
  unfold registersWriteCheck
  rw [checked_ite (by decide), checked_ite (by decide), checked_ite (by decide), checked_success]
  simp only [dataTooShort_eq_true, registersPayloadWrong, bne_iff_ne, rangePassesEnd_eq_true]
  rfl

/-! The answers in the words of the statements. -/

theorem emptyReadAnswer_eq_true {p : Params} {count : Word} :
    emptyReadAnswer p count = true ↔ count = 0#16 ∧ p.emptyReadForm = .empty := by
  simp [emptyReadAnswer]

/-- A one-byte byte count is taken modulo 256 (R87, R88). -/
theorem byteCount_eq_ofNat_mod (n : Nat) : byteCount n = BitVec.ofNat 8 (n % 256) :=
  BitVec.eq_of_toNat_eq (by simp [byteCount])

theorem bitsAnswer_eq (p : Params) (count : Word) (r : BitsRead Bank) :
    bitsAnswer p count r =
      if r.exc ≠ 0#8 then Spec.failed r.exc r.bank
      else if count = 0#16 ∧ p.emptyReadForm = .empty then ⟨[], 0#8, r.bank⟩
      else ⟨BitVec.ofNat 8 ((packBits r.bits).length % 256) :: packBits r.bits, 0#8, r.bank⟩ := by
  simp only [bitsAnswer, emptyReadAnswer_eq_true, byteCount_eq_ofNat_mod]
  rfl

theorem beWords_answeredWords (count : Nat) (absent : Nat → Word) (words : List Word) :
    beWords (answeredWords count absent words) = (List.range count).flatMap fun i => be16 (words.getD i (absent i)) := by
  rw [beWords_eq_flatten, answeredWords, List.map_map, List.flatMap_def]
  rfl

theorem wordsAnswer_eq (p : Params) (count : Word) (absent : Nat → Word) (r : WordsRead Bank) :
    wordsAnswer p count absent r =
      if r.exc ≠ 0#8 then Spec.failed r.exc r.bank
      else if count = 0#16 ∧ p.emptyReadForm = .empty then ⟨[], 0#8, r.bank⟩
      else ⟨BitVec.ofNat 8 (2 * count.toNat % 256) ::
        (List.range count.toNat).flatMap fun i => be16 (r.words.getD i (absent i)), 0#8, r.bank⟩ := by
  simp only [wordsAnswer, emptyReadAnswer_eq_true, byteCount_eq_ofNat_mod, beWords_answeredWords]
  rfl

theorem echoAnswer_eq_echoed (data : List Byte) (r : Written Bank) : echoAnswer data r = Spec.echoed r data := rfl

/-! The rules of the handlers. -/

/-- Settles O23: the checks of a read in their order, then the answer from what the bank call returned. -/
theorem bitReadsFollowTheirRule : Obligations.BitReadsFollowTheirRule := by
  unfold Obligations.BitReadsFollowTheirRule
  refine fun p bank f => ⟨?_, ?_⟩
  · rw [runHandler_stdReadCoils, checked_readCheck, bitsAnswer_eq]; rfl
  · rw [runHandler_stdReadDiscreteInputs, checked_readCheck, bitsAnswer_eq]; rfl

/-- Settles O24: the checks of a read in their order, then the answer from what the bank call returned. -/
theorem registerReadsFollowTheirRule : Obligations.RegisterReadsFollowTheirRule := by
  unfold Obligations.RegisterReadsFollowTheirRule
  refine fun p bank f => ⟨?_, ?_⟩
  · rw [runHandler_stdReadHoldingRegisters, checked_readCheck, wordsAnswer_eq]; rfl
  · rw [runHandler_stdReadInputRegisters, checked_readCheck, wordsAnswer_eq]; rfl

theorem opCoilValue_eq_decide (data : List Byte) : opCoilValue data = decide (beWord data 2 ≠ 0#16) := by
  simp [opCoilValue, opValue, bne, beq_eq_decide]

/-- Settles O25: the length check, then one bank call and its echo. -/
theorem singleWritesFollowTheirRule : Obligations.SingleWritesFollowTheirRule := by
  unfold Obligations.SingleWritesFollowTheirRule
  refine fun p bank f => ⟨?_, ?_⟩
  · rw [runHandler_stdWriteSingleCoil, checked_singleWriteCheck, echoAnswer_eq_echoed, opCoilValue_eq_decide]; rfl
  · rw [runHandler_stdWriteSingleRegister, checked_singleWriteCheck, echoAnswer_eq_echoed]; rfl

/-- Settles O26: the checks of a multiple write in their order, then one bank call and its echo. -/
theorem multipleWritesFollowTheirRule : Obligations.MultipleWritesFollowTheirRule := by
  unfold Obligations.MultipleWritesFollowTheirRule
  refine fun p bank f => ⟨?_, ?_⟩
  · rw [runHandler_stdWriteMultipleCoils, checked_coilsWriteCheck, echoAnswer_eq_echoed]; rfl
  · rw [runHandler_stdWriteMultipleRegisters, checked_registersWriteCheck, echoAnswer_eq_echoed]; rfl

end Sys2Proof.Machine
end

section
/-! O28, O29 (R137, R138). The exception codes and the payload sizes of the standard handlers with the default bank. -/

namespace Sys2Proof.Machine

/-! The exception codes (R137). -/

/-- The exception codes that R137 allows. -/
def standardCode (e : Byte) : Prop := e = excSuccess ∨ e = excIllegalDataAddress ∨ e = excIllegalDataValue

theorem standardCode_success : standardCode excSuccess := .inl rfl

theorem standardCode_address : standardCode excIllegalDataAddress := .inr (.inl rfl)

theorem standardCode_value : standardCode excIllegalDataValue := .inr (.inr rfl)

theorem standardCode_ite {c : Prop} [Decidable c] {e e' : Byte} (h : standardCode e) (h' : standardCode e') :
    standardCode (if c then e else e') := by
  split
  · exact h
  · exact h'

theorem readCheck_standardCode (p : Params) (limit : Nat) (data : List Byte) : standardCode (readCheck p limit data) :=
  standardCode_ite standardCode_value (standardCode_ite standardCode_value
    (standardCode_ite standardCode_address standardCode_success))

theorem singleWriteCheck_standardCode (data : List Byte) : standardCode (singleWriteCheck data) :=
  standardCode_ite standardCode_value standardCode_success

theorem coilsWriteCheck_standardCode (data : List Byte) : standardCode (coilsWriteCheck data) :=
  standardCode_ite standardCode_value (standardCode_ite standardCode_address
    (standardCode_ite standardCode_value standardCode_success))

theorem registersWriteCheck_standardCode (data : List Byte) : standardCode (registersWriteCheck data) :=
  standardCode_ite standardCode_value (standardCode_ite standardCode_address
    (standardCode_ite standardCode_value standardCode_success))

theorem checked_standardCode {e : Byte} {bank : Bank} {r : HandlerResult} (he : standardCode e) (hr : standardCode r.exc) :
    standardCode (checked e bank r).exc := by
  unfold checked
  split
  · exact he
  · exact hr

/-! An answer has the exception code of its bank call. -/

@[simp] theorem bitsAnswer_exc (p : Params) (count : Word) (r : BitsRead Bank) : (bitsAnswer p count r).exc = r.exc := by
  by_cases h : r.exc = excSuccess
  · cases he : emptyReadAnswer p count <;> simp [bitsAnswer, h, he]
  · simp [bitsAnswer, raiseModbus, h]

@[simp] theorem wordsAnswer_exc (p : Params) (count : Word) (absent : Nat → Word) (r : WordsRead Bank) :
    (wordsAnswer p count absent r).exc = r.exc := by
  by_cases h : r.exc = excSuccess
  · cases he : emptyReadAnswer p count <;> simp [wordsAnswer, h, he]
  · simp [wordsAnswer, raiseModbus, h]

@[simp] theorem echoAnswer_exc (data : List Byte) (r : Written Bank) : (echoAnswer data r).exc = r.exc := by
  by_cases h : r.exc = excSuccess <;> simp [echoAnswer, raiseModbus, h]

/-! The calls of the default bank, by whether the range passes the end of the space (R151 to R158). -/

theorem readBitSpace_exc (m : Memory Bool) (start count : Word) :
    (readBitSpace m start count).2 = if rangePassesEnd start count.toNat then excIllegalDataAddress else excSuccess := by
  unfold readBitSpace; split <;> rfl

theorem readWordSpace_exc (m : Memory Word) (start count : Word) :
    (readWordSpace m start count).2 = if rangePassesEnd start count.toNat then excIllegalDataAddress else excSuccess := by
  unfold readWordSpace; split <;> rfl

theorem readBitSpace_standardCode (m : Memory Bool) (start count : Word) : standardCode (readBitSpace m start count).2 := by
  rw [readBitSpace_exc]; exact standardCode_ite standardCode_address standardCode_success

theorem readWordSpace_standardCode (m : Memory Word) (start count : Word) : standardCode (readWordSpace m start count).2 := by
  rw [readWordSpace_exc]; exact standardCode_ite standardCode_address standardCode_success

theorem writeMultipleCoils_default_exc (a : Arrays) (start : Word) (bits : List Bool) :
    (Bank.writeMultipleCoils (.default a) start bits).exc =
      if rangePassesEnd start bits.length then excIllegalDataAddress else excSuccess := by
  unfold Bank.writeMultipleCoils; dsimp only; split <;> rfl

theorem writeMultipleRegisters_default_exc (a : Arrays) (start : Word) (words : List Word) :
    (Bank.writeMultipleRegisters (.default a) start words).exc =
      if rangePassesEnd start words.length then excIllegalDataAddress else excSuccess := by
  unfold Bank.writeMultipleRegisters; dsimp only; split <;> rfl

/-- Settles O28: the checks end in these codes only, and an answer has the code of the default bank's call. -/
theorem standardHandlersReturnOnlyZeroTwoThree : Obligations.StandardHandlersReturnOnlyZeroTwoThree := by
  unfold Obligations.StandardHandlersReturnOnlyZeroTwoThree
  intro p a h f hh
  change standardCode (runHandler p h (.default a) f).exc
  cases h with
  | stdReadCoils =>
    rw [runHandler_stdReadCoils]
    exact checked_standardCode (readCheck_standardCode ..) (by rw [bitsAnswer_exc]; exact readBitSpace_standardCode ..)
  | stdReadDiscreteInputs =>
    rw [runHandler_stdReadDiscreteInputs]
    exact checked_standardCode (readCheck_standardCode ..) (by rw [bitsAnswer_exc]; exact readBitSpace_standardCode ..)
  | stdReadHoldingRegisters =>
    rw [runHandler_stdReadHoldingRegisters]
    exact checked_standardCode (readCheck_standardCode ..) (by rw [wordsAnswer_exc]; exact readWordSpace_standardCode ..)
  | stdReadInputRegisters =>
    rw [runHandler_stdReadInputRegisters]
    exact checked_standardCode (readCheck_standardCode ..) (by rw [wordsAnswer_exc]; exact readWordSpace_standardCode ..)
  | stdWriteSingleCoil =>
    rw [runHandler_stdWriteSingleCoil]
    exact checked_standardCode (singleWriteCheck_standardCode _) (by rw [echoAnswer_exc]; exact standardCode_success)
  | stdWriteSingleRegister =>
    rw [runHandler_stdWriteSingleRegister]
    exact checked_standardCode (singleWriteCheck_standardCode _) (by rw [echoAnswer_exc]; exact standardCode_success)
  | stdWriteMultipleCoils =>
    rw [runHandler_stdWriteMultipleCoils]
    refine checked_standardCode (coilsWriteCheck_standardCode _) ?_
    rw [echoAnswer_exc, writeMultipleCoils_default_exc]
    exact standardCode_ite standardCode_address standardCode_success
  | stdWriteMultipleRegisters =>
    rw [runHandler_stdWriteMultipleRegisters]
    refine checked_standardCode (registersWriteCheck_standardCode _) ?_
    rw [echoAnswer_exc, writeMultipleRegisters_default_exc]
    exact standardCode_ite standardCode_address standardCode_success
  | custom k => exact absurd rfl (hh k)

/-! The payload sizes (R138). -/

theorem eq_zero_iff_toNat {v : Word} : v = 0#16 ↔ v.toNat = 0 := BitVec.toNat_eq

/-- A successful answer of a bit read: the byte count and the packed bits, or nothing. -/
theorem bitsAnswer_payload_length {p : Params} {count : Word} {r : BitsRead Bank} (h : r.exc = excSuccess) :
    (bitsAnswer p count r).payload.length =
      if count.toNat = 0 ∧ p.emptyReadForm = .empty then 0 else 1 + ceilDiv8 r.bits.length := by
  rw [bitsAnswer, if_neg (not_not.2 h)]
  simp only [emptyReadAnswer_eq_true, eq_zero_iff_toNat]
  split
  · rfl
  · simp [Nat.add_comm]

/-- A successful answer of a register read: the byte count and two bytes a register, or nothing. -/
theorem wordsAnswer_payload_length {p : Params} {count : Word} {absent : Nat → Word} {r : WordsRead Bank}
    (h : r.exc = excSuccess) :
    (wordsAnswer p count absent r).payload.length =
      if count.toNat = 0 ∧ p.emptyReadForm = .empty then 0 else 1 + 2 * count.toNat := by
  rw [wordsAnswer, if_neg (not_not.2 h)]
  simp only [emptyReadAnswer_eq_true, eq_zero_iff_toNat]
  split
  · rfl
  · simp [Nat.add_comm]

/-- A successful answer of a write: the first four bytes of Data. -/
theorem echoAnswer_payload {data : List Byte} {r : Written Bank} (h : r.exc = excSuccess) :
    (echoAnswer data r).payload = data.take 4 := by
  rw [echoAnswer, if_neg (not_not.2 h)]; rfl

/-- A read whose range ends inside the space answers as many bits as it asks for. -/
theorem readBitSpace_bits_length {m : Memory Bool} {start count : Word} (h : (readBitSpace m start count).2 = excSuccess) :
    (readBitSpace m start count).1.length = count.toNat := by
  have hr : ¬rangePassesEnd start count.toNat = true := by
    rw [readBitSpace_exc, ite_eq_success (by decide)] at h; exact h.1
  rw [readBitSpace, if_neg hr, Memory.readMany_length]

/-- The size of a successful bit read of the default bank under the default count limits, whichever space the call `r` reads. -/
theorem bitRead_payload_length {p : Params} {bank : Bank} {data : List Byte} {r : BitsRead Bank}
    (hp : p.countLimits = .enforceUpper) (hbits : r.exc = excSuccess → r.bits.length = (opCount data).toNat)
    (h : (checked (readCheck p Config.maxReadBits data) bank (bitsAnswer p (opCount data) r)).exc = excSuccess) :
    let payload := (checked (readCheck p Config.maxReadBits data) bank (bitsAnswer p (opCount data) r)).payload
    let count := (opCount data).toNat
    payload.length = (if count = 0 ∧ p.emptyReadForm = .empty then 0 else 1 + (count + 7) / 8) ∧ payload.length ≤ 251 := by
  obtain ⟨hc, hr⟩ := checked_exc_eq_success.1 h
  rw [bitsAnswer_exc] at hr
  obtain ⟨_, hlimit, _⟩ := readCheck_eq_success.1 hc
  have hcount : (opCount data).toNat ≤ 2000 := Nat.not_lt.1 fun hl => hlimit ⟨hp, hl⟩
  simp only [hc, checked_success, bitsAnswer_payload_length hr, hbits hr, ceilDiv8, true_and]
  split <;> omega

/-- The size of a successful register read under the default count limits. -/
theorem wordRead_payload_length {p : Params} {bank : Bank} {data : List Byte} {absent : Nat → Word} {r : WordsRead Bank}
    (hp : p.countLimits = .enforceUpper)
    (h : (checked (readCheck p Config.maxReadRegs data) bank (wordsAnswer p (opCount data) absent r)).exc = excSuccess) :
    let payload := (checked (readCheck p Config.maxReadRegs data) bank (wordsAnswer p (opCount data) absent r)).payload
    let count := (opCount data).toNat
    payload.length = (if count = 0 ∧ p.emptyReadForm = .empty then 0 else 1 + 2 * count) ∧ payload.length ≤ 251 := by
  obtain ⟨hc, hr⟩ := checked_exc_eq_success.1 h
  rw [wordsAnswer_exc] at hr
  obtain ⟨_, hlimit, _⟩ := readCheck_eq_success.1 hc
  have hcount : (opCount data).toNat ≤ 125 := Nat.not_lt.1 fun hl => hlimit ⟨hp, hl⟩
  simp only [hc, checked_success, wordsAnswer_payload_length hr, true_and]
  split <;> omega

/-- The size of a successful write, whose checks `e` pass only Data of at least four bytes. -/
theorem write_payload_length {e : Byte} {bank : Bank} {data : List Byte} {r : Written Bank}
    (hdata : e = excSuccess → 4 ≤ data.length) (h : (checked e bank (echoAnswer data r)).exc = excSuccess) :
    (checked e bank (echoAnswer data r)).payload.length = 4 := by
  obtain ⟨rfl, hr⟩ := checked_exc_eq_success.1 h
  rw [echoAnswer_exc] at hr
  rw [checked_success, echoAnswer_payload hr, List.length_take, Nat.min_eq_left (hdata rfl)]

/-- Settles O29, by the three kinds of handler. -/
theorem standardPayloadSizes : Obligations.StandardPayloadSizes := by
  unfold Obligations.StandardPayloadSizes
  intro p a h f hp
  refine fun hexc => ⟨?_, ?_, ?_⟩
  · rintro (rfl | rfl)
    · exact bitRead_payload_length hp readBitSpace_bits_length hexc
    · exact bitRead_payload_length hp readBitSpace_bits_length hexc
  · rintro (rfl | rfl)
    · exact wordRead_payload_length hp hexc
    · exact wordRead_payload_length hp hexc
  · rintro (rfl | rfl | rfl | rfl)
    · exact write_payload_length singleWriteCheck_eq_success.1 hexc
    · exact write_payload_length singleWriteCheck_eq_success.1 hexc
    · rw [runHandler_stdWriteMultipleCoils] at hexc ⊢
      refine write_payload_length (fun he => ?_) hexc
      have hlen := (coilsWriteCheck_eq_success.1 he).1
      omega
    · refine write_payload_length (e := registersWriteCheck f.data) (fun he => ?_) hexc
      have hlen := (registersWriteCheck_eq_success.1 he).1
      omega

end Sys2Proof.Machine
end

section
/-! O27 (R73, R161, R192 to R194). A multiple write and a read of the same range, taken by the dispatcher one after the other: the default
bank reads back the entries written, and the payload is these entries on the wire. -/

namespace Sys2Proof.Machine

/-! The entries of a range and their bytes. -/

/-- A range of a canonical space reads back as what a multiple write stored in it (R161). -/
theorem readMany_writeMany {α : Type} [Inhabited α] [DecidableEq α] {m : Memory α} (h : Memory.wf m = true) {start : Nat}
    {vs : List α} (hr : start + vs.length ≤ Config.addrSpaceSize) :
    Memory.readMany (Memory.writeMany m start vs) start vs.length = vs := by
  refine List.ext_getElem (Memory.readMany_length ..) fun i _ hi => ?_
  simp [Memory.readMany_eq_map, Memory.read_writeMany h hr, hi]

@[simp] theorem opWords_length (payload : List Byte) (n : Nat) : (opWords payload n).length = n := by simp [opWords]

/-- The first word of a payload, and the words behind it. -/
theorem opWords_cons_cons (hi lo : Byte) (payload : List Byte) (n : Nat) :
    opWords (hi :: lo :: payload) (n + 1) = ofHiLo hi lo :: opWords payload n := by
  simp [opWords, List.range_succ_eq_map, Nat.mul_add]

/-- The words of a payload, written out again, are the payload (R61, R91). -/
theorem beWords_opWords {payload : List Byte} {n : Nat} (h : payload.length = 2 * n) : beWords (opWords payload n) = payload := by
  induction n generalizing payload with
  | zero => rw [List.eq_nil_of_length_eq_zero h]; rfl
  | succ n ih =>
    match payload, h with
    | hi :: lo :: payload, h =>
      rw [opWords_cons_cons, beWords, be16_ofHiLo, ih (by simpa [Nat.mul_add] using h)]
      rfl

/-! The operands of a request (R91), from the Data that a master sends. -/

section

variable (register count : Word) (rest : List Byte)

@[simp] theorem opRegister_append : opRegister (be16 register ++ (be16 count ++ rest)) = register := ofHiLo_hiByte_loByte register

@[simp] theorem opCount_append : opCount (be16 register ++ (be16 count ++ rest)) = count := ofHiLo_hiByte_loByte count

@[simp] theorem opEcho_append : opEcho (be16 register ++ (be16 count ++ rest)) = be16 register ++ be16 count := rfl

@[simp] theorem opPayload_append (byteCount : Byte) : opPayload (be16 register ++ (be16 count ++ byteCount :: rest)) = rest := rfl

@[simp] theorem opRegister_be16 : opRegister (be16 register ++ be16 count) = register := ofHiLo_hiByte_loByte register

@[simp] theorem opCount_be16 : opCount (be16 register ++ be16 count) = count := ofHiLo_hiByte_loByte count

end

/-! The handlers on the default bank, for a range inside the space. -/

section

variable {p : Params} {a : Arrays} {hdr : Header} {fc : Byte} {register count : Word}

theorem runHandler_writeMultipleRegisters_default {byteCount : Byte} {payload : List Byte}
    (hrange : register.toNat + count.toNat ≤ Config.addrSpaceSize) (hlen : payload.length = 2 * count.toNat) :
    runHandler p .stdWriteMultipleRegisters (.default a) (hdr.frame fc (be16 register ++ be16 count ++ byteCount :: payload)) =
      ⟨be16 register ++ be16 count, excSuccess, .default { a with
        holdingRegisters := Memory.writeMany a.holdingRegisters register.toNat (opWords payload count.toNat) }⟩ := by
  have hcheck : registersWriteCheck (be16 register ++ be16 count ++ byteCount :: payload) = excSuccess :=
    registersWriteCheck_eq_success.2 (by simp [hrange, hlen]; omega)
  have hin := rangePassesEnd_false.2 hrange
  rw [runHandler_stdWriteMultipleRegisters, Header.frame_data, hcheck, checked_success]
  simp [Bank.writeMultipleRegisters, hin, echoAnswer]

theorem runHandler_writeMultipleCoils_default {byteCount : Byte} {payload : List Byte}
    (hrange : register.toNat + count.toNat ≤ Config.addrSpaceSize) (hlen : payload.length = ceilDiv8 count.toNat) :
    runHandler p .stdWriteMultipleCoils (.default a) (hdr.frame fc (be16 register ++ be16 count ++ byteCount :: payload)) =
      ⟨be16 register ++ be16 count, excSuccess, .default { a with
        coils := Memory.writeMany a.coils register.toNat ((List.range count.toNat).map (packedBit payload)) }⟩ := by
  have hcheck : coilsWriteCheck (be16 register ++ be16 count ++ byteCount :: payload) = excSuccess :=
    coilsWriteCheck_eq_success.2 (by simp [hrange, hlen]; omega)
  have hin := rangePassesEnd_false.2 hrange
  rw [runHandler_stdWriteMultipleCoils, Header.frame_data, hcheck, checked_success]
  simp [Bank.writeMultipleCoils, hin, echoAnswer]

/-- The check of a read of at most `limit` entries, whether limits are enforced or not. -/
theorem readCheck_be16 {limit : Nat} (hrange : register.toNat + count.toNat ≤ Config.addrSpaceSize)
    (hlimit : count.toNat ≤ limit) : readCheck p limit (be16 register ++ be16 count) = excSuccess :=
  readCheck_eq_success.2 (by simp [hrange, hlimit])

theorem emptyReadAnswer_of_pos (hpos : 0 < count.toNat) : emptyReadAnswer p count = false := by
  rw [← Bool.not_eq_true, emptyReadAnswer_eq_true, eq_zero_iff_toNat]
  omega

theorem runHandler_readHoldingRegisters_default (hrange : register.toNat + count.toNat ≤ Config.addrSpaceSize)
    (hpos : 0 < count.toNat) (hlimit : count.toNat ≤ 125) :
    runHandler p .stdReadHoldingRegisters (.default a) (hdr.frame fc (be16 register ++ be16 count)) =
      ⟨byteCount (2 * count.toNat) :: beWords (Memory.readMany a.holdingRegisters register.toNat count.toNat), excSuccess,
        .default a⟩ := by
  have hin := rangePassesEnd_false.2 hrange
  simp [runHandler_stdReadHoldingRegisters, readCheck_be16 hrange hlimit, Bank.readHoldingRegisters, readWordSpace, hin, wordsAnswer,
    emptyReadAnswer_of_pos hpos, answeredWords_eq_self]

theorem runHandler_readCoils_default (hrange : register.toNat + count.toNat ≤ Config.addrSpaceSize)
    (hpos : 0 < count.toNat) (hlimit : count.toNat ≤ 2000) :
    runHandler p .stdReadCoils (.default a) (hdr.frame fc (be16 register ++ be16 count)) =
      ⟨byteCount (ceilDiv8 count.toNat) :: packBits (Memory.readMany a.coils register.toNat count.toNat), excSuccess,
        .default a⟩ := by
  have hin := rangePassesEnd_false.2 hrange
  simp [runHandler_stdReadCoils, readCheck_be16 hrange hlimit, Bank.readCoils, readBitSpace, hin, bitsAnswer,
    emptyReadAnswer_of_pos hpos]

/-- The registers of a range read back as the payload that was written to them. -/
theorem registers_read_back {hdr' : Header} {fc' bc : Byte} {payload : List Byte} (hwf : Memory.wf a.holdingRegisters = true)
    (hrange : register.toNat + count.toNat ≤ Config.addrSpaceSize) (hpos : 0 < count.toNat) (hlimit : count.toNat ≤ 125)
    (hlen : payload.length = 2 * count.toNat) :
    ∃ b, runHandler p .stdWriteMultipleRegisters (.default a)
        (hdr.frame fc (be16 register ++ be16 count ++ bc :: payload)) = ⟨be16 register ++ be16 count, excSuccess, b⟩ ∧
      runHandler p .stdReadHoldingRegisters b (hdr'.frame fc' (be16 register ++ be16 count)) =
        ⟨BitVec.ofNat 8 payload.length :: payload, excSuccess, b⟩ := by
  have hread := readMany_writeMany hwf (vs := opWords payload count.toNat) (by rwa [opWords_length])
  rw [opWords_length] at hread
  refine ⟨_, runHandler_writeMultipleRegisters_default hrange hlen, ?_⟩
  rw [runHandler_readHoldingRegisters_default hrange hpos hlimit, hread, beWords_opWords hlen, ← hlen, byteCount]

/-- The coils of a range read back as the payload that was written to them, its padding bits being 0. -/
theorem coils_read_back {hdr' : Header} {fc' bc : Byte} {payload : List Byte} (hwf : Memory.wf a.coils = true)
    (hrange : register.toNat + count.toNat ≤ Config.addrSpaceSize) (hpos : 0 < count.toNat) (hlimit : count.toNat ≤ 2000)
    (hlen : payload.length = ceilDiv8 count.toNat)
    (hpad : ∀ i, count.toNat ≤ i → i < 8 * payload.length → packedBit payload i = false) :
    ∃ b, runHandler p .stdWriteMultipleCoils (.default a)
        (hdr.frame fc (be16 register ++ be16 count ++ bc :: payload)) = ⟨be16 register ++ be16 count, excSuccess, b⟩ ∧
      runHandler p .stdReadCoils b (hdr'.frame fc' (be16 register ++ be16 count)) =
        ⟨BitVec.ofNat 8 payload.length :: payload, excSuccess, b⟩ := by
  have hbits : ((List.range count.toNat).map (packedBit payload)).length = count.toNat := by simp
  have hread := readMany_writeMany hwf (vs := (List.range count.toNat).map (packedBit payload)) (by rwa [hbits])
  rw [hbits] at hread
  refine ⟨_, runHandler_writeMultipleCoils_default hrange hlen, ?_⟩
  rw [runHandler_readCoils_default hrange hpos hlimit, hread, packBits_unpacked hlen hpad, ← hlen, byteCount]

end

/-! The dispatcher's steps. -/

/-- Any response but a TCP one of more than 65533 bytes of Data fits its framing (R175). -/
theorem fits_frame {hdr : Header} {fc : Byte} {data : List Byte} (h : data.length ≤ 65533) :
    Spec.fits (hdr.frame fc data) = true := by
  cases hdr with
  | rtu address => rfl
  | tcp txn proto device => exact decide_eq_true (Nat.add_le_add_right h 2)

theorem handling_of_slot {s : State} {hdr : Header} {fc : Byte} {data : List Byte} {h : HandlerId} (hs : s.slot fc = some h) :
    Spec.handling s (hdr.frame fc data) = runHandler s.cfg h s.bank (hdr.frame fc data) := by
  rw [Spec.handling, Header.frame_function, hs]

/-- The response to a request that its handler answers with Success (R179). -/
theorem response_of_handling {s : State} {hdr : Header} {fc : Byte} {data payload : List Byte} {h : HandlerId} {b : Bank}
    (hs : s.slot fc = some h) (hr : runHandler s.cfg h s.bank (hdr.frame fc data) = ⟨payload, excSuccess, b⟩) :
    Spec.response (hdr.frame fc data) (Spec.handling s (hdr.frame fc data)) = hdr.frame fc payload := by
  rw [handling_of_slot hs, hr, Spec.response, if_pos rfl, Header.frame_header, Header.frame_function]

/-- The request arm leaves function table and parameters; the bank is the handler's, the queue the rest, and the response is written next. -/
theorem taken_fields (s : State) (req : Request) (rest : List Request) :
    (Spec.taken s req rest).ft = s.ft ∧ (Spec.taken s req rest).cfg = s.cfg ∧
      (Spec.taken s req rest).bank = (Spec.handling s req.frame).bank ∧ (Spec.taken s req rest).queue = rest ∧
      (Spec.taken s req rest).dstate = .write (Spec.wire (Spec.response req.frame (Spec.handling s req.frame))) req.sink := by
  unfold Spec.taken Spec.handled
  cases Spec.response req.frame (Spec.handling s req.frame) <;> exact ⟨rfl, rfl, rfl, rfl, rfl⟩

/-- The request arm (R192 (a)), for a response that fits its framing. -/
theorem runMove_dispRequest_of_fits {s : State} {req : Request} {rest : List Request} (hd : s.dstate = .idle)
    (hq : s.queue = req :: rest) (hf : Spec.fits (Spec.response req.frame (Spec.handling s req.frame)) = true) :
    runMove .dispRequest s = .next (Spec.taken s req rest) := by
  simp only [runMove, dispRequest, State.nextRequest_of_idle hd hq, takeRequest_eq, hf, if_true, orWait]

/-- The write step (R194) writes the sources and returns to `D_IDLE`. -/
theorem runMove_dispWrite {s : State} {bytes : List Byte} {k : SinkId} (hd : s.dstate = .write bytes k) :
    runMove .dispWrite s = .next (routeResponse bytes k s) := by
  simp only [runMove, dispWrite, hd, orWait]

/-- Two requests at the head of the queue that their handlers answer with Success, the second on the bank that the first left: the two
responses in turn, and the rest of the queue. -/
theorem dispatcher_takes_two {s : State} {hdr hdr' : Header} {fc fc' : Byte} {data data' : List Byte} {k k' : SinkId}
    {rest : List Request} {h h' : HandlerId} {payload payload' : List Byte} {b b' : Bank} (hd : s.dstate = .idle)
    (hq : s.queue = ⟨hdr.frame fc data, k⟩ :: ⟨hdr'.frame fc' data', k'⟩ :: rest)
    (hs : s.slot fc = some h) (hs' : s.slot fc' = some h')
    (hr : runHandler s.cfg h s.bank (hdr.frame fc data) = ⟨payload, excSuccess, b⟩)
    (hr' : runHandler s.cfg h' b (hdr'.frame fc' data') = ⟨payload', excSuccess, b'⟩)
    (hl : payload.length ≤ 65533) (hl' : payload'.length ≤ 65533) :
    ∃ t u, runMove .dispRequest s = .next t ∧ t.dstate = .write (Spec.wire (hdr.frame fc payload)) k ∧
      runMoves [.dispWrite, .dispRequest] t = .next u ∧ u.queue = rest ∧
      u.dstate = .write (Spec.wire (hdr'.frame fc' payload')) k' := by
  have hx := response_of_handling hs hr
  have ht := runMove_dispRequest_of_fits hd hq (by rw [hx]; exact fits_frame hl)
  obtain ⟨htft, htcfg, htb, htq, htd⟩ := taken_fields s ⟨hdr.frame fc data, k⟩ (⟨hdr'.frame fc' data', k'⟩ :: rest)
  rw [hx] at htd
  have hw := runMove_dispWrite htd
  generalize hv : routeResponse _ _ _ = v at hw
  have hvd : v.dstate = .idle := by rw [← hv]; rfl
  have hvq : v.queue = ⟨hdr'.frame fc' data', k'⟩ :: rest := by rw [← hv]; simp [routeResponse, htq]
  have hvs : v.slot fc' = some h' := by rw [← hs', ← hv]; simp [routeResponse, State.slot, htft]
  have hvr : runHandler v.cfg h' v.bank (hdr'.frame fc' data') = ⟨payload', excSuccess, b'⟩ := by
    rw [← hr', ← hv]; simp [routeResponse, htcfg, htb, handling_of_slot hs, hr]
  have hx' := response_of_handling hvs hvr
  have hu := runMove_dispRequest_of_fits hvd hvq (by rw [hx']; exact fits_frame hl')
  obtain ⟨_, _, _, huq, hud⟩ := taken_fields v ⟨hdr'.frame fc' data', k'⟩ rest
  rw [hx'] at hud
  exact ⟨_, _, ht, htd, by simp only [runMoves, hw, hu], huq, hud⟩

/-- Settles O27: the dispatcher answers the two requests in turn, and the entries that the default bank reads back are those of the
payload. -/
theorem masterReadsBackWhatItWrote : Obligations.MasterReadsBackWhatItWrote := by
  unfold Obligations.MasterReadsBackWhatItWrote
  intro s a hdr hdr' k k' rest register count bc payload hd hb hwf hrange hpos
  rw [hb] at hwf
  simp only [Bank.wf, Bool.and_eq_true] at hwf
  obtain ⟨⟨⟨hcoils, _⟩, hregs⟩, _⟩ := hwf
  refine ⟨fun hs hs' hlimit hlen hq => ?_, fun hs hs' hlimit hlen hpad hq => ?_⟩
  · obtain ⟨b, hwrite, hread⟩ := registers_read_back (p := s.cfg) hregs hrange hpos hlimit hlen
    rw [← hb] at hwrite
    exact dispatcher_takes_two hd hq hs hs' hwrite hread (by simp) (by rw [List.length_cons]; omega)
  · obtain ⟨b, hwrite, hread⟩ := coils_read_back (p := s.cfg) hcoils hrange hpos hlimit hlen hpad
    rw [← hb] at hwrite
    exact dispatcher_takes_two hd hq hs hs' hwrite hread (by simp) (by rw [List.length_cons]; omega)

end Sys2Proof.Machine
end

section
/-! O16 to O20 (R150 to R158, R161, R162). The calls of the default bank, by whether the range passes the end of the space; and what reads
leave between a multiple write and the read of its range. -/

namespace Sys2Proof

open Sys2Proof.Machine

/-! A range of one space of the default bank. -/

theorem rangePassesEnd_true {start : Word} {n : Nat} : rangePassesEnd start n = true ↔ 65536 < start.toNat + n := decide_eq_true_iff

/-- A part of a range reads as that part of what the whole range reads. -/
theorem Memory.readMany_part {α : Type} [Inhabited α] (m : Memory α) (start : Nat) {i n k : Nat} (h : i + n ≤ k) :
    Memory.readMany m (start + i) n = ((Memory.readMany m start k).drop i).take n := by
  refine List.ext_getElem (by simp; omega) fun j _ _ => ?_
  simp [Memory.readMany_eq_map, Nat.add_assoc]

/-- A part of the range of a multiple write reads back as that part of the values (R161). -/
theorem Memory.readMany_writeMany_part {α : Type} [Inhabited α] [DecidableEq α] {m : Memory α} (hm : Memory.wf m = true)
    {start i n : Nat} {vs : List α} (hr : start + vs.length ≤ 65536) (h : i + n ≤ vs.length) :
    Memory.readMany (Memory.writeMany m start vs) (start + i) n = (vs.drop i).take n := by
  rw [Memory.readMany_part _ _ h, readMany_writeMany hm hr]

theorem readBitSpace_eq (m : Memory Bool) (start count : Word) :
    readBitSpace m start count =
      (if 65536 < start.toNat + count.toNat then [] else (List.range count.toNat).map fun i => Memory.read m (start.toNat + i),
        if 65536 < start.toNat + count.toNat then 2#8 else 0#8) := by
  rw [readBitSpace, Memory.readMany_eq_map]
  simp only [rangePassesEnd_true]
  split <;> rfl

theorem readWordSpace_eq (m : Memory Word) (start count : Word) :
    readWordSpace m start count =
      (if 65536 < start.toNat + count.toNat then [] else (List.range count.toNat).map fun i => Memory.read m (start.toNat + i),
        if 65536 < start.toNat + count.toNat then 2#8 else 0#8) := by
  rw [readWordSpace, Memory.readMany_eq_map]
  simp only [rangePassesEnd_true]
  split <;> rfl

theorem readBitSpace_of_le (m : Memory Bool) {start count : Word} (h : start.toNat + count.toNat ≤ 65536) :
    readBitSpace m start count = (Memory.readMany m start.toNat count.toNat, excSuccess) := by
  rw [readBitSpace, rangePassesEnd_false.2 h]; rfl

theorem readWordSpace_of_le (m : Memory Word) {start count : Word} (h : start.toNat + count.toNat ≤ 65536) :
    readWordSpace m start count = (Memory.readMany m start.toNat count.toNat, excSuccess) := by
  rw [readWordSpace, rangePassesEnd_false.2 h]; rfl

/-- Settles O16: a read of a space answers by whether its range passes the end, and the bank goes through it unchanged. -/
theorem bankReadsAnswerTheRange : Obligations.BankReadsAnswerTheRange := by
  unfold Obligations.BankReadsAnswerTheRange
  intro a start count
  refine ⟨?_, ?_, ?_, ?_⟩
  · rw [Bank.readCoils, readBitSpace_eq]
  · rw [Bank.readDiscreteInputs, readBitSpace_eq]
  · rw [Bank.readHoldingRegisters, readWordSpace_eq]
  · rw [Bank.readInputRegisters, readWordSpace_eq]

/-! Writes of the default bank. -/

/-- The canonical form, of the two spaces that the protocol writes. -/
theorem Bank.default_wf_written {a : Arrays} (h : (Bank.default a).wf = true) :
    Memory.wf a.coils = true ∧ Memory.wf a.holdingRegisters = true := by
  simp only [Bank.wf, Bool.and_eq_true] at h
  obtain ⟨⟨⟨hcoils, _⟩, hregs⟩, _⟩ := h
  exact ⟨hcoils, hregs⟩

/-- Settles O17: the written space reads the value at the one address (`Memory.read_write`). -/
theorem bankSingleWritesWriteOneEntry : Obligations.BankSingleWritesWriteOneEntry := by
  unfold Obligations.BankSingleWritesWriteOneEntry
  intro a addr hwf
  obtain ⟨hcoils, hregs⟩ := Bank.default_wf_written hwf
  exact ⟨fun v => ⟨_, rfl, fun x => Memory.read_write hcoils _ x v⟩, fun v => ⟨_, rfl, fun x => Memory.read_write hregs _ x v⟩⟩

section

variable {a : Arrays} {start : Word} {bits : List Bool} {words : List Word}

theorem Bank.writeMultipleCoils_default_of_lt (h : 65536 < start.toNat + bits.length) :
    Bank.writeMultipleCoils (.default a) start bits = ⟨excIllegalDataAddress, .default a⟩ := by
  rw [Bank.writeMultipleCoils]; exact if_pos (rangePassesEnd_true.2 h)

theorem Bank.writeMultipleRegisters_default_of_lt (h : 65536 < start.toNat + words.length) :
    Bank.writeMultipleRegisters (.default a) start words = ⟨excIllegalDataAddress, .default a⟩ := by
  rw [Bank.writeMultipleRegisters]; exact if_pos (rangePassesEnd_true.2 h)

theorem Bank.writeMultipleCoils_default_of_le (h : start.toNat + bits.length ≤ 65536) :
    Bank.writeMultipleCoils (.default a) start bits =
      ⟨excSuccess, .default { a with coils := Memory.writeMany a.coils start.toNat bits }⟩ := by
  rw [Bank.writeMultipleCoils, rangePassesEnd_false.2 h]; rfl

theorem Bank.writeMultipleRegisters_default_of_le (h : start.toNat + words.length ≤ 65536) :
    Bank.writeMultipleRegisters (.default a) start words =
      ⟨excSuccess, .default { a with holdingRegisters := Memory.writeMany a.holdingRegisters start.toNat words }⟩ := by
  rw [Bank.writeMultipleRegisters, rangePassesEnd_false.2 h]; rfl

end

/-- Settles O18: the written space reads the values in the range (`Memory.read_writeMany`). -/
theorem bankMultipleWritesWriteTheRangeOrNothing : Obligations.BankMultipleWritesWriteTheRangeOrNothing := by
  unfold Obligations.BankMultipleWritesWriteTheRangeOrNothing
  intro a start hwf
  obtain ⟨hcoils, hregs⟩ := Bank.default_wf_written hwf
  refine ⟨fun bits h => ?_, fun words h => ?_, fun bits h => ?_, fun words h => ?_⟩
  · exact Bank.writeMultipleCoils_default_of_lt h
  · exact Bank.writeMultipleRegisters_default_of_lt h
  · exact ⟨_, Bank.writeMultipleCoils_default_of_le h, fun x => Memory.read_writeMany hcoils h x⟩
  · exact ⟨_, Bank.writeMultipleRegisters_default_of_le h, fun x => Memory.read_writeMany hregs h x⟩

/-- Settles O19: the part that is read lies inside the range, so its read is inside the space too. -/
theorem bankReadAfterWrite : Obligations.BankReadAfterWrite := by
  unfold Obligations.BankReadAfterWrite
  intro a start hwf
  obtain ⟨hcoils, hregs⟩ := Bank.default_wf_written hwf
  refine ⟨fun words h i x n hx hn => ?_, fun bits h i x n hx hn => ?_⟩
  · have hxn : x.toNat + n.toNat ≤ 65536 := by omega
    simp only [Bank.writeMultipleRegisters_default_of_le h, Bank.readHoldingRegisters, readWordSpace_of_le _ hxn, hx,
      Memory.readMany_writeMany_part hregs h hn]
  · have hxn : x.toNat + n.toNat ≤ 65536 := by omega
    simp only [Bank.writeMultipleCoils_default_of_le h, Bank.readCoils, readBitSpace_of_le _ hxn, hx,
      Memory.readMany_writeMany_part hcoils h hn]

/-! The contract of every bank (R150, R161, R162). -/

theorem readBitSpace_zero (m : Memory Bool) (start : Word) : readBitSpace m start 0#16 = ([], excSuccess) :=
  readBitSpace_of_le m start.isLt.le

theorem readWordSpace_zero (m : Memory Word) (start : Word) : readWordSpace m start 0#16 = ([], excSuccess) :=
  readWordSpace_of_le m start.isLt.le

/-- A read of `(s, 0)` in each of the four spaces (R150). -/
theorem Bank.reads_zero (b : Bank) (start : Word) :
    (b.readCoils start 0#16).bits = [] ∧ (b.readCoils start 0#16).exc = 0#8 ∧
    (b.readDiscreteInputs start 0#16).bits = [] ∧ (b.readDiscreteInputs start 0#16).exc = 0#8 ∧
    (b.readHoldingRegisters start 0#16).words = [] ∧ (b.readHoldingRegisters start 0#16).exc = 0#8 ∧
    (b.readInputRegisters start 0#16).words = [] ∧ (b.readInputRegisters start 0#16).exc = 0#8 := by
  cases b with
  | default a =>
    simp [Bank.readCoils, Bank.readDiscreteInputs, Bank.readHoldingRegisters, Bank.readInputRegisters, readBitSpace_zero,
      readWordSpace_zero, excSuccess]
  | custom st last => exact ⟨rfl, rfl, rfl, rfl, rfl, rfl, rfl, rfl⟩

/-- The default bank after reads only. -/
theorem Bank.calls_reads_default (a : Arrays) {cs : List BankCall} (h : ∀ c ∈ cs, Spec.isRead c = true) :
    (Bank.default a).calls cs = .default a := by
  induction cs with
  | nil => rfl
  | cons c cs ih =>
    obtain ⟨hc, hcs⟩ := List.forall_mem_cons.1 h
    cases c with
    | readCoils | readDiscreteInputs | readHoldingRegisters | readInputRegisters => exact ih hcs
    | writeSingleCoil | writeSingleRegister | writeMultipleCoils | writeMultipleRegisters => cases hc

/-- A custom bank after reads only: what its coming reads are bound to stays. -/
theorem Bank.calls_reads_custom (st : Nat) (last : Option LastWrite) {cs : List BankCall} (h : ∀ c ∈ cs, Spec.isRead c = true) :
    ∃ st', (Bank.custom st last).calls cs = .custom st' last := by
  induction cs generalizing st with
  | nil => exact ⟨st, rfl⟩
  | cons c cs ih =>
    obtain ⟨hc, hcs⟩ := List.forall_mem_cons.1 h
    cases c with
    | readCoils | readDiscreteInputs | readHoldingRegisters | readInputRegisters => exact ih _ hcs
    | writeSingleCoil | writeSingleRegister | writeMultipleCoils | writeMultipleRegisters => cases hc

/-- The contract's answer where R161 fixes one; a read of no entries agrees with it. -/
theorem contractAnswer_some {α : Type} {values : List α} {count : Word} (h : values.length = count.toNat) (own : List α × Byte) :
    contractAnswer (some values) count own = (values, excSuccess) := by
  unfold contractAnswer
  split
  · next hc => subst hc; rw [List.eq_nil_of_length_eq_zero h]
  · rfl

/-- A custom bank's own answer, where the contract fixes none. -/
theorem contractAnswer_none {α : Type} {count : Word} (h : count ≠ 0#16) (own : List α × Byte) :
    contractAnswer none count own = own := if_neg h

theorem LastWrite.ofRange_eq (start : Word) (length : Nat) (w : LastWrite) :
    LastWrite.ofRange start length w = if start.toNat + length ≤ 65536 then some w else none := by
  unfold LastWrite.ofRange
  split
  · next h => rw [if_neg (Nat.not_le.2 (rangePassesEnd_true.1 h))]
  · next h => rw [if_pos (rangePassesEnd_false.1 (by simpa using h))]

theorem LastWrite.coilsAt_same {start count : Word} {bits : List Bool} (h : bits.length = count.toNat) :
    LastWrite.coilsAt (some (.coils start bits)) start count = some bits := if_pos ⟨rfl, h⟩

theorem LastWrite.registersAt_same {start count : Word} {words : List Word} (h : words.length = count.toNat) :
    LastWrite.registersAt (some (.registers start words)) start count = some words := if_pos ⟨rfl, h⟩

theorem LastWrite.coilsAt_eq_none {last : Option LastWrite} {start count : Word}
    (h : ∀ bits, last = some (.coils start bits) → bits.length ≠ count.toNat) : LastWrite.coilsAt last start count = none := by
  unfold LastWrite.coilsAt
  split
  · exact if_neg fun ⟨ha, hl⟩ => h _ (by rw [ha]) hl
  · rfl

theorem LastWrite.registersAt_eq_none {last : Option LastWrite} {start count : Word}
    (h : ∀ words, last = some (.registers start words) → words.length ≠ count.toNat) :
    LastWrite.registersAt last start count = none := by
  unfold LastWrite.registersAt
  split
  · exact if_neg fun ⟨ha, hl⟩ => h _ (by rw [ha]) hl
  · rfl

section

variable {b : Bank} {start count : Word} {reads : List BankCall}

/-- The coils of a range read back after reads only (R161). -/
theorem Bank.readCoils_after_reads (hwf : b.wf = true) (hreads : ∀ c ∈ reads, Spec.isRead c = true)
    (hr : start.toNat + count.toNat ≤ 65536) {bits : List Bool} (hl : bits.length = count.toNat) :
    let r := ((b.writeMultipleCoils start bits).bank.calls reads).readCoils start count
    r.bits = bits ∧ r.exc = 0#8 := by
  have hr' : start.toNat + bits.length ≤ 65536 := by rwa [hl]
  cases b with
  | default a =>
    simp only [Bank.writeMultipleCoils_default_of_le hr', Bank.calls_reads_default _ hreads, Bank.readCoils, readBitSpace_of_le _ hr,
      ← hl, readMany_writeMany (Bank.default_wf_written hwf).1 hr', excSuccess, and_self]
  | custom st last =>
    simp only [Bank.writeMultipleCoils, customWritten, LastWrite.ofRange_eq, if_pos hr']
    obtain ⟨st', hst⟩ := Bank.calls_reads_custom (Config.customWriteMultipleCoils st start bits).bank (some (.coils start bits)) hreads
    simp only [hst, Bank.readCoils, customBits, LastWrite.coilsAt_same hl, contractAnswer_some hl, excSuccess, and_self]

/-- The registers of a range read back after reads only (R161). -/
theorem Bank.readHoldingRegisters_after_reads (hwf : b.wf = true) (hreads : ∀ c ∈ reads, Spec.isRead c = true)
    (hr : start.toNat + count.toNat ≤ 65536) {words : List Word} (hl : words.length = count.toNat) :
    let r := ((b.writeMultipleRegisters start words).bank.calls reads).readHoldingRegisters start count
    r.words = words ∧ r.exc = 0#8 := by
  have hr' : start.toNat + words.length ≤ 65536 := by rwa [hl]
  cases b with
  | default a =>
    simp only [Bank.writeMultipleRegisters_default_of_le hr', Bank.calls_reads_default _ hreads, Bank.readHoldingRegisters,
      readWordSpace_of_le _ hr, ← hl, readMany_writeMany (Bank.default_wf_written hwf).2 hr', excSuccess, and_self]
  | custom st last =>
    simp only [Bank.writeMultipleRegisters, customWritten, LastWrite.ofRange_eq, if_pos hr']
    obtain ⟨st', hst⟩ :=
      Bank.calls_reads_custom (Config.customWriteMultipleRegisters st start words).bank (some (.registers start words)) hreads
    simp only [hst, Bank.readHoldingRegisters, customWords, LastWrite.registersAt_same hl, contractAnswer_some hl, excSuccess, and_self]

end

/-- Settles O20: reads leave what the contract binds the next reads to, and where the contract fixes no answer a custom bank's own functions
answer. -/
theorem everyBankMeetsItsContract : Obligations.EveryBankMeetsItsContract := by
  unfold Obligations.EveryBankMeetsItsContract
  refine ⟨Bank.reads_zero, fun b start count reads hwf hreads hr => ⟨fun bits hl => ?_, fun words hl => ?_⟩,
    fun st last start count hc => ⟨?_, ?_, fun h => ?_, fun h => ?_⟩, fun st last start count => ⟨rfl, rfl, rfl, rfl⟩,
    fun st last start => ⟨fun v => rfl, fun v => rfl, fun bits => ?_, fun words => ?_⟩⟩
  · exact Bank.readCoils_after_reads hwf hreads hr hl
  · exact Bank.readHoldingRegisters_after_reads hwf hreads hr hl
  · simp only [Bank.readDiscreteInputs, customBits, contractAnswer_none hc]
  · simp only [Bank.readInputRegisters, customWords, contractAnswer_none hc]
  · simp only [Bank.readCoils, customBits, LastWrite.coilsAt_eq_none h, contractAnswer_none hc]
  · simp only [Bank.readHoldingRegisters, customWords, LastWrite.registersAt_eq_none h, contractAnswer_none hc]
  · simp only [Bank.writeMultipleCoils, customWritten, LastWrite.ofRange_eq]
  · simp only [Bank.writeMultipleRegisters, customWritten, LastWrite.ofRange_eq]

end Sys2Proof
end

section
/-! O31 (R159). No capability call writes the discrete inputs or the input registers of the default bank. -/

namespace Sys2Proof

/-- The bank `b` is the default bank with the discrete inputs and input registers of `a`. -/
def Bank.KeepsReadOnly (a : Arrays) (b : Bank) : Prop :=
  ∃ a', b = .default a' ∧ a'.discreteInputs = a.discreteInputs ∧ a'.inputRegisters = a.inputRegisters

theorem Bank.KeepsReadOnly.call {a : Arrays} {b : Bank} (h : b.KeepsReadOnly a) (c : BankCall) : (b.call c).KeepsReadOnly a := by
  obtain ⟨a', rfl, hd, hi⟩ := h
  cases c with
  | readCoils | readDiscreteInputs | readHoldingRegisters | readInputRegisters => exact ⟨a', rfl, hd, hi⟩
  | writeSingleCoil | writeSingleRegister => exact ⟨_, rfl, hd, hi⟩
  | writeMultipleCoils start bits =>
    simp only [Bank.call, Bank.writeMultipleCoils]
    split <;> exact ⟨_, rfl, hd, hi⟩
  | writeMultipleRegisters start words =>
    simp only [Bank.call, Bank.writeMultipleRegisters]
    split <;> exact ⟨_, rfl, hd, hi⟩

theorem Bank.KeepsReadOnly.calls {a : Arrays} {b : Bank} (h : b.KeepsReadOnly a) (cs : List BankCall) :
    (b.calls cs).KeepsReadOnly a := by
  induction cs generalizing b with
  | nil => exact h
  | cons c cs ih => exact ih (h.call c)

/-- Settles O31: the bank after a step is the bank before it after some capability calls (`Machine.step_bank`). -/
theorem readOnlySpacesNeverChange : Obligations.ReadOnlySpacesNeverChange := by
  unfold Obligations.ReadOnlySpacesNeverChange
  intro s t a h hb
  obtain ⟨cs, hcs⟩ := Machine.step_bank h
  rw [hcs, hb]
  exact Bank.KeepsReadOnly.calls ⟨a, rfl, rfl, rfl⟩ cs

end Sys2Proof
end

section
/-! O21 (R150 to R158, R190, R262). The eight bank commands: each is one capability call, made before `start()` and not after. -/

namespace Sys2Proof.Machine

theorem beforeStart_of_config {served s : State} (h : s.life = .config) : beforeStart served s = .next served := by
  rw [beforeStart, if_pos h]

theorem beforeStart_of_ne_config {served s : State} (h : s.life ≠ .config) : beforeStart served s = .next (s.report .waiting) := by
  rw [beforeStart, if_neg h]

/-- Settles O21: each command is its call within `beforeStart`. -/
theorem bankCommandsMakeTheirCall : Obligations.BankCommandsMakeTheirCall := by
  unfold Obligations.BankCommandsMakeTheirCall
  refine ⟨fun s h => ?_, fun s start count v bit bits words h => ?_⟩
  · have hcall (served : State) : beforeStart served s = .next served := beforeStart_of_config h
    exact ⟨fun start count => ⟨hcall _, hcall _, hcall _, hcall _⟩, fun addr v => hcall _, fun addr v => hcall _,
      fun start bits => hcall _, fun start words => hcall _⟩
  · have hwait (served : State) : beforeStart served s = .next (s.report .waiting) := beforeStart_of_ne_config h
    simp only [List.forall_mem_cons]
    exact ⟨hwait _, hwait _, hwait _, hwait _, hwait _, hwait _, hwait _, hwait _, List.forall_mem_nil _⟩

end Sys2Proof.Machine
end

section
/-! O11 to O14 (R170 to R172, R174 to R176). The framers: a string parses to a frame exactly when it is that frame laid out, for RTU with
the CRC of its bytes, for TCP with a Length field that is right or, under `TOLERANT`, any. -/

namespace Sys2Proof.Machine

/-! RTU framing. -/

theorem parseRtu_serializeRtu (f : RtuFrame) : parseRtu (serializeRtu f) = .ok f := by
  have hlen : ¬(serializeRtu f).length < 4 := by simp [serializeRtu, rtuBody]
  have hcrc : crcOf (crcPrefix (serializeRtu f)) = crcTrailer (serializeRtu f) := by
    rw [serializeRtu, crcPrefix_append_le16, crcTrailer_append_le16]
  have hdata : slice (serializeRtu f) 2 ((serializeRtu f).length - 2) = f.data := by
    rw [slice, ← crcPrefix, serializeRtu, crcPrefix_append_le16]; rfl
  rw [parseRtu, if_neg hlen, if_neg (not_not.2 hcrc), hdata]
  rfl

/-- The fields that RTU_PARSE reads make up all of a string but its trailer. -/
theorem rtuBody_fields {b : List Byte} (h : 4 ≤ b.length) :
    rtuBody ⟨byteAt b 0, byteAt b 1, slice b 2 (b.length - 2)⟩ = crcPrefix b := by
  match b, h with
  | _ :: _ :: _ :: _ :: _, _ => rfl

/-- RTU_PARSE answers a frame for the bytes of that frame, and for no others (R172). -/
theorem parseRtu_eq_ok_iff {b : List Byte} {f : RtuFrame} : parseRtu b = .ok f ↔ b = serializeRtu f := by
  constructor
  · intro h
    obtain ⟨hlen, hcrc, rfl⟩ := parseRtu_eq_ok h
    rw [serializeRtu, rtuBody_fields hlen, hcrc, crcPrefix_append_crcTrailer (by omega)]
  · rintro rfl
    exact parseRtu_serializeRtu f

theorem rtuOutcome_eq_ok_iff {r : Except DecodeFailure RtuFrame} {f : RtuFrame} : rtuOutcome r = .ok (.rtu f) ↔ r = .ok f := by
  cases r <;> simp [rtuOutcome]

/-- The trailing CRC as R170 writes it, of a string that has one. -/
theorem crcTrailer_eq_ofHiLo {b : List Byte} (h : 2 ≤ b.length) :
    crcTrailer b = ofHiLo (b.getD (b.length - 1) 0#8) (b.getD (b.length - 2) 0#8) := by
  rw [show b.length - 1 = b.length - 2 + 1 by omega]
  rfl

theorem parseRtu_of_short {b : List Byte} (h : b.length < 4) : parseRtu b = .error .short := if_pos h

theorem rtuOutcome_parseRtu {b : List Byte} (h : ¬b.length < 4) :
    rtuOutcome (parseRtu b) =
      if crcOf (crcPrefix b) ≠ crcTrailer b then .err .crcMismatch
      else .ok (.rtu ⟨byteAt b 0, byteAt b 1, slice b 2 (b.length - 2)⟩) := by
  rw [parseRtu, if_neg h, apply_ite rtuOutcome]
  rfl

/-! TCP framing. -/

theorem be16_injective {v w : Word} (h : be16 v = be16 w) : v = w := by
  simpa [be16] using congrArg (beWord · 0) h

/-- The MBAP header with any Length field, and the PDU behind it: a TCP packet that need not be what TCP_SERIALIZE gives. -/
def tcpPacket (len : Word) (f : TcpFrame) : List Byte :=
  be16 f.txn ++ be16 f.proto ++ be16 len ++ f.device :: f.function :: f.data

@[simp] theorem tcpPacket_length (len : Word) (f : TcpFrame) : (tcpPacket len f).length = f.data.length + 8 := by
  simp [tcpPacket]; omega

@[simp] theorem beWord_tcpPacket_four (len : Word) (f : TcpFrame) : beWord (tcpPacket len f) 4 = len := ofHiLo_hiByte_loByte len

/-- The fields that TCP_PARSE reads, with the Length field, make up all of a string. -/
theorem tcpPacket_fields {b : List Byte} (h : 8 ≤ b.length) :
    tcpPacket (beWord b 4) ⟨beWord b 0, beWord b 2, byteAt b 6, byteAt b 7, b.drop 8⟩ = b := by
  match b, h with
  | _ :: _ :: _ :: _ :: _ :: _ :: _ :: _ :: _, _ => simp [tcpPacket]

theorem fields_tcpPacket (len : Word) (f : TcpFrame) :
    (⟨beWord (tcpPacket len f) 0, beWord (tcpPacket len f) 2, byteAt (tcpPacket len f) 6, byteAt (tcpPacket len f) 7,
      (tcpPacket len f).drop 8⟩ : TcpFrame) = f := by
  simp [tcpPacket, be16]

/-- TCP_PARSE answers a frame for the packets of that frame, of which `STRICT` takes the one with the right Length field. -/
theorem parseTcp_eq_ok_iff {p : Params} {b : List Byte} {f : TcpFrame} :
    parseTcp p b = .ok f ↔
      ∃ len, b = tcpPacket len f ∧ (p.tcpLengthCheck = .strict → len.toNat = f.data.length + 2) := by
  constructor
  · intro h
    obtain ⟨hlen, rfl, hstrict⟩ := parseTcp_eq_ok h
    refine ⟨beWord b 4, (tcpPacket_fields hlen).symm, fun hs => ?_⟩
    rw [hstrict hs, List.length_drop]
    omega
  · rintro ⟨len, rfl, hstrict⟩
    have hlen : ¬(tcpPacket len f).length < 8 := by simp
    have hcheck : ¬(p.tcpLengthCheck = .strict ∧ (beWord (tcpPacket len f) 4).toNat ≠ (tcpPacket len f).length - 6) := by
      simpa using hstrict
    rw [parseTcp, if_neg hlen, if_neg hcheck, fields_tcpPacket]

theorem tcpOutcome_eq_ok_iff {r : Except DecodeFailure TcpFrame} {f : TcpFrame} : tcpOutcome r = .ok (.tcp f) ↔ r = .ok f := by
  cases r <;> simp [tcpOutcome]

theorem tcpOutcome_parseTcp (p : Params) (b : List Byte) :
    tcpOutcome (parseTcp p b) =
      if b.length < 8 then .err .short
      else if p.tcpLengthCheck = .strict ∧ (beWord b 4).toNat ≠ b.length - 6 then .err .lengthMismatch
      else .ok (.tcp ⟨beWord b 0, beWord b 2, byteAt b 6, byteAt b 7, b.drop 8⟩) := by
  rw [parseTcp, apply_ite tcpOutcome, apply_ite tcpOutcome]
  rfl

/-- The Length field of a frame's Data (R175). -/
def tcpLen (f : TcpFrame) : Word := BitVec.ofNat 16 (f.data.length + 2)

theorem tcpLen_toNat {f : TcpFrame} (h : f.data.length + 2 ≤ 65535) : (tcpLen f).toNat = f.data.length + 2 :=
  Nat.mod_eq_of_lt (by omega)

theorem serializeTcp_of_le {f : TcpFrame} (h : f.data.length + 2 ≤ 65535) : serializeTcp f = some (tcpPacket (tcpLen f) f) :=
  if_neg (Nat.not_lt.2 h)

theorem serializeTcp_of_lt {f : TcpFrame} (h : 65535 < f.data.length + 2) : serializeTcp f = none := if_pos h

/-! The commands. -/

theorem exec_rtuParse (b : List Byte) (s : State) :
    exec (.rtuParse b) s = .next ((s.afterRtuParse b).report (.parsed (rtuOutcome (parseRtu b)))) := rfl

theorem exec_rtuSerialize (f : RtuFrame) (s : State) :
    exec (.rtuSerialize f) s = .next ((s.loadCrc (crcOf (rtuBody f))).report (.bytes (serializeRtu f))) := rfl

theorem exec_tcpParse (b : List Byte) (s : State) :
    exec (.tcpParse b) s = .next (s.report (.parsed (tcpOutcome (parseTcp s.cfg b)))) := rfl

theorem exec_tcpSerialize_of_le {f : TcpFrame} (h : f.data.length + 2 ≤ 65535) (s : State) :
    exec (.tcpSerialize f) s = .next (s.report (.bytes (tcpPacket (tcpLen f) f))) := by
  simp only [exec, execTcpSerialize, serializeTcp_of_le h]

theorem exec_tcpSerialize_of_lt {f : TcpFrame} (h : 65535 < f.data.length + 2) (s : State) :
    exec (.tcpSerialize f) s = .next (s.raise .tcpResponseTooLong) := by
  simp only [exec, execTcpSerialize, serializeTcp_of_lt h]

/-- RTU_PARSE that answers a frame was given the bytes of that frame. -/
theorem eq_serializeRtu_of_exec {b : List Byte} {f : RtuFrame} {s t : State} (h : exec (.rtuParse b) s = .next t)
    (hr : t.result = .parsed (.ok (.rtu f))) : b = serializeRtu f := by
  rw [exec_rtuParse] at h
  injection h with h
  subst h
  exact parseRtu_eq_ok_iff.1 (rtuOutcome_eq_ok_iff.1 (Result.parsed.inj hr))

/-- TCP_PARSE of a packet with a Length field that is right or is not checked. -/
theorem exec_tcpParse_tcpPacket {len : Word} {f : TcpFrame} {s : State}
    (h : s.cfg.tcpLengthCheck = .strict → len.toNat = f.data.length + 2) :
    exec (.tcpParse (tcpPacket len f)) s = .next (s.report (.parsed (.ok (.tcp f)))) := by
  rw [exec_tcpParse, parseTcp_eq_ok_iff.2 ⟨len, rfl, h⟩, tcpOutcome]

/-- TCP_PARSE that answers a frame was given a packet of that frame. -/
theorem eq_tcpPacket_of_exec {b : List Byte} {f : TcpFrame} {s t : State} (h : exec (.tcpParse b) s = .next t)
    (hr : t.result = .parsed (.ok (.tcp f))) :
    ∃ len, b = tcpPacket len f ∧ (s.cfg.tcpLengthCheck = .strict → len.toNat = f.data.length + 2) := by
  rw [exec_tcpParse] at h
  injection h with h
  subst h
  exact parseTcp_eq_ok_iff.1 (tcpOutcome_eq_ok_iff.1 (Result.parsed.inj hr))

/-- Settles O13: the strings that parse to a frame are its own bytes (`parseRtu_eq_ok_iff`). -/
theorem rtuFramerRoundTrips : Obligations.RtuFramerRoundTrips := by
  unfold Obligations.RtuFramerRoundTrips
  refine ⟨fun f s => ⟨serializeRtu f, _, _, exec_rtuSerialize f s, rfl, exec_rtuParse _ _, ?_⟩, fun b f s t h hr => ?_⟩
  · rw [State.report_result, parseRtu_serializeRtu, rtuOutcome]
  · rw [eq_serializeRtu_of_exec h hr]
    exact ⟨_, exec_rtuSerialize f t, rfl⟩

/-- Settles O14: the strings that parse to a frame are its packets (`parseTcp_eq_ok_iff`), which differ in the Length field alone, and
TCP_SERIALIZE gives the one with the right Length. -/
theorem tcpFramerRoundTrips : Obligations.TcpFramerRoundTrips := by
  unfold Obligations.TcpFramerRoundTrips
  refine ⟨fun f s hl => ?_, fun b f s t hs h hr => ?_, fun b s hs h8 hmax hwrong => ?_⟩
  · have hfit : f.data.length + 2 ≤ 65535 := by omega
    exact ⟨_, _, _, exec_tcpSerialize_of_le hfit s, rfl, exec_tcpParse_tcpPacket fun _ => tcpLen_toNat hfit, rfl⟩
  · obtain ⟨len, rfl, hstrict⟩ := eq_tcpPacket_of_exec h hr
    have hlen := hstrict hs
    have hfit : f.data.length + 2 ≤ 65535 := by have := len.isLt; omega
    have hright : tcpLen f = len := BitVec.eq_of_toNat_eq ((tcpLen_toNat hfit).trans hlen.symm)
    exact ⟨_, exec_tcpSerialize_of_le hfit t, by rw [hright]; rfl⟩
  · obtain ⟨len, f, rfl⟩ : ∃ len f, b = tcpPacket len f := ⟨_, _, (tcpPacket_fields h8).symm⟩
    simp only [tcpPacket_length, beWord_tcpPacket_four] at hmax hwrong
    have hfit : f.data.length + 2 ≤ 65535 := by omega
    refine ⟨f, _, _, _, exec_tcpParse_tcpPacket (by simp [hs]), rfl, exec_tcpSerialize_of_le hfit _, rfl, rfl, rfl, fun he => ?_⟩
    have hsame : be16 (tcpLen f) = be16 len := he
    rw [← be16_injective hsame, tcpLen_toNat hfit] at hwrong
    omega

/-- Settles O11, for RTU_PARSE by whether the string has a CRC to check. -/
theorem parsersCheckLengthThenContent : Obligations.ParsersCheckLengthThenContent := by
  unfold Obligations.ParsersCheckLengthThenContent
  refine ⟨fun b s => ?_, fun b s => ?_⟩
  · by_cases h : b.length < 4
    · refine ⟨s.crc, s.crcLoaded, ?_⟩
      rw [exec_rtuParse, State.afterRtuParse, if_pos h, if_pos h, parseRtu_of_short h]
      rfl
    · refine ⟨crcOf (crcPrefix b), true, ?_⟩
      rw [exec_rtuParse, State.afterRtuParse, if_neg h, if_neg h, rtuOutcome_parseRtu h, crcTrailer_eq_ofHiLo (by omega)]
      rfl
  · rw [exec_tcpParse, tcpOutcome_parseTcp]
    rfl

/-- Settles O12: the layout is that of the model, and TCP_SERIALIZE turns on whether the Length field holds the length. -/
theorem serializersLayOutTheFrame : Obligations.SerializersLayOutTheFrame := by
  unfold Obligations.SerializersLayOutTheFrame
  exact ⟨exec_rtuSerialize, fun f s h => exec_tcpSerialize_of_le h s, fun f s h => exec_tcpSerialize_of_lt h s⟩

end Sys2Proof.Machine
end

section
/-! O32, O35, O36 (R190 to R193, R195 to R197). The function table's commands, HANDLE, and the dispatcher's own moves: each completes by
the equation of `handleRequest`, `takeRequest` or `asDispatcher`, or is not enabled. -/

namespace Sys2Proof.Machine

/-! The function table. -/

/-- The slots after FN_SET (R197). -/
theorem State.slot_setSlot (s : State) (fc : Byte) (h : Option HandlerId) (x : Byte) :
    (s.setSlot fc h).slot x = if x = fc then h else s.slot x := by
  simp only [State.slot, State.setSlot, Vector.getElem_set, BitVec.toNat_inj, eq_comm (a := fc)]

theorem State.mayLookup_of_config {s : State} (h : s.life = .config) (fc : Byte) : s.mayLookup fc = true := by
  simp [State.mayLookup, h]

theorem State.mayLookup_of_idle {s : State} {req : Request} {rest : List Request} (hd : s.dstate = .idle)
    (hq : s.queue = req :: rest) : s.mayLookup req.frame.function = true := by
  simp [State.mayLookup, State.nextRequest_of_idle hd hq]

/-- From `start()` on the table may be read at the code of the request taken next, and at no other (R190). -/
theorem State.mayLookup_eq_false {s : State} {fc : Byte} (hl : s.life ≠ .config)
    (h : s.dstate ≠ .idle ∨ ∀ req ∈ s.queue.head?, req.frame.function ≠ fc) : s.mayLookup fc = false := by
  cases hn : s.nextRequest with
  | none => simp [State.mayLookup, hl, hn]
  | some r =>
    obtain ⟨hd, hq⟩ := State.nextRequest_eq_some hn
    have hfc : r.1.frame.function ≠ fc := (h.resolve_left (not_not_intro hd)) r.1 (by simp [hq])
    simp [State.mayLookup, hl, hn, hfc]

theorem exec_fnLookup (fc : Byte) (s : State) :
    exec (.fnLookup fc) s = .next { s with result := if s.mayLookup fc = true then .slot (s.slot fc) else .waiting } := rfl

/-- Settles O32: FN_LOOKUP by whether the table may be read at its code, FN_SET by the lifecycle state. -/
theorem functionTableOperations : Obligations.FunctionTableOperations := by
  unfold Obligations.FunctionTableOperations
  refine ⟨fun fc s hl => ?_, fun s req rest hd hq => ?_, fun fc s hl h => ?_, fun fc h s hl => ?_, fun fc h s hl => ?_⟩
  · rw [exec_fnLookup, if_pos (State.mayLookup_of_config hl fc)]
  · rw [exec_fnLookup, if_pos (State.mayLookup_of_idle hd hq)]
  · simp [exec_fnLookup, State.mayLookup_eq_false hl h]
  · exact ⟨_, if_pos hl, s.slot_setSlot fc h⟩
  · exact if_neg hl

/-! HANDLE and the dispatcher's moves. -/

theorem exec_handle_of_config {s : State} (hl : s.life = .config) (req : Request) :
    exec (.handle req) s = match handleRequest req s with
      | .ok (bytes, s') => .next (s'.report (.response bytes req.sink))
      | .error f        => .next (s.raise f) :=
  if_pos hl

theorem exec_handle_of_ne_config {s : State} (hl : s.life ≠ .config) (req : Request) :
    exec (.handle req) s = asDispatcher (fun r => decide (r = req)) (fun bytes => .response bytes req.sink) s :=
  if_neg hl

/-- Settles O35: before `start()` HANDLE itself, afterwards the request arm for a head of the queue that is this very request. -/
theorem handleServesTheRequest : Obligations.HandleServesTheRequest := by
  unfold Obligations.HandleServesTheRequest
  refine ⟨fun req s hl => ?_, fun req rest s hl hd hq => ?_, fun req s hl h => ?_⟩
  · simp only [exec_handle_of_config hl, handleRequest_eq]
    cases Spec.fits (Spec.response req.frame (Spec.handling s req.frame)) <;> rfl
  · exact (exec_handle_of_ne_config hl req).trans (asDispatcher_of_wanted _ hd hq (decide_eq_true rfl))
  · have hw : s.dstate ≠ .idle ∨ ∀ r ∈ s.queue.head?, decide (r = req) = false :=
      h.imp_right fun hne r hr => decide_eq_false fun he => hne (he ▸ hr)
    exact (exec_handle_of_ne_config hl req).trans (asDispatcher_of_unwanted _ hw)

/-- The request arm (R192 (a)), whether or not the response fits its framing. -/
theorem runMove_dispRequest {s : State} {req : Request} {rest : List Request} (hd : s.dstate = .idle) (hq : s.queue = req :: rest) :
    runMove .dispRequest s = .next (if Spec.fits (Spec.response req.frame (Spec.handling s req.frame)) = true
      then Spec.taken s req rest
      else { s with fault := some .tcpResponseTooLong }) := by
  simp only [runMove, dispRequest, State.nextRequest_of_idle hd hq, takeRequest_eq]
  cases Spec.fits (Spec.response req.frame (Spec.handling s req.frame)) <;> rfl

/-- The dispatcher waits where none of its steps is enabled (R192). -/
theorem runMove_dispatcher_of_waiting {s : State} (h : (s.dstate = .idle ∧ s.queue = [] ∧ s.close = false) ∨ s.dstate = .exit) :
    ∀ m ∈ [Move.dispStart, .dispRequest, .dispClose, .dispWrite], runMove m s = .next s := by
  have hstart : dispStart s = none := by rcases h with ⟨hd, _, _⟩ | hd <;> simp [dispStart, hd]
  have hrequest : dispRequest s = none := by
    rcases h with ⟨hd, hq, _⟩ | hd
    · simp [dispRequest, State.nextRequest, hd, hq]
    · simp [dispRequest, State.nextRequest, hd]
  have hclose : dispClose s = none := by
    rcases h with ⟨_, _, hc⟩ | hd
    · simp [dispClose, hc]
    · simp [dispClose, hd]
  have hwrite : dispWrite s = none := by rcases h with ⟨hd, _, _⟩ | hd <;> simp [dispWrite, hd]
  simp [runMove, hstart, hrequest, hclose, hwrite, orWait]

/-- Settles O36: each step of the dispatcher where it is enabled, and the states in which it has none. -/
theorem dispatcherSelects : Obligations.DispatcherSelects := by
  unfold Obligations.DispatcherSelects
  refine ⟨fun s hd hl => ?_, fun s req rest hd hq => runMove_dispRequest hd hq, fun s hd hc => ?_,
    fun s hd hq hc => runMove_dispatcher_of_waiting (.inl ⟨hd, hq, hc⟩), fun s hd => runMove_dispatcher_of_waiting (.inr hd)⟩
  · simp only [runMove, dispStart, if_pos (And.intro hd hl)]
    rfl
  · simp only [runMove, dispClose, if_pos (And.intro hd hc)]
    rfl

end Sys2Proof.Machine
end

section
/-! O37, O38 (R69, R194, R199). What a step does to the sources, as the relation `Spec.SourceStep` of the statements; ROUTE by it; and the
output of a source over every step of the block. -/

namespace Sys2Proof.Machine

open Spec

/-! The operations on a source change that source and no other. -/

theorem State.listener?_acc (s : State) (l : Nat) : (s.listener? l).map (·.acc) = s.accs[l]? := by
  simp [State.listener?, State.accs]

theorem accepts_of_accs {s t : State} (h : t.accs = s.accs) (l : Nat) :
    (t.listener? l).map (·.acc) = (s.listener? l).map (·.acc) := by
  rw [State.listener?_acc, State.listener?_acc, h]

section

variable (s : State) (k : SinkId)

theorem sourceStep_routeResponse (b : List Byte) :
    SourceStep s (routeResponse b k s) k (fun c => (c.deliver b).release) (fun sp => (sp.deliver b).release) :=
  ⟨s.conn?_writeBack b k, s.port?_writeBack b k, accepts_of_accs (s.accs_writeBack b k)⟩

theorem sourceStep_startWait (req : Request) :
    SourceStep s (s.startWait k req) k (fun c => { c with rstate := .wait req }) (fun sp => { sp with rstate := .wait req }) :=
  ⟨State.conn?_startWait k req s, State.port?_startWait k req s, accepts_of_accs (State.accs_startWait k req s)⟩

theorem sourceStep_closeSource : SourceStep s (s.closeSource k) k Conn.teardown SerialPort.shut :=
  ⟨State.conn?_closeSource k s, State.port?_closeSource k s, accepts_of_accs (State.accs_closeSource k s)⟩

end

theorem sourceStep_setConn {s : State} {l n : Nat} {c : Conn} (h : s.conn? l n = some c) (c' : Conn) :
    SourceStep s (s.setConn l n c') (.tcp l n) (fun _ => c') id :=
  ⟨fun l' n' => by simpa only [h] using s.conn?_updateConn l n (fun _ => c') l' n', by simp, accepts_of_accs (by simp)⟩

theorem sourceStep_setPort {s : State} {p : Nat} {sp : SerialPort} (h : s.port? p = some sp) (sp' : SerialPort) :
    SourceStep s (s.setPort p sp') (.rtu p) id (fun _ => sp') :=
  ⟨by simp, fun p' => by simpa only [h] using s.port?_updatePort p (fun _ => sp') p', accepts_of_accs rfl⟩

/-! ROUTE (R194). -/

theorem Conn.release_deliver_eq (b : List Byte) (c : Conn) :
    (c.deliver b).release = { c with
      out := if c.isOpen then c.out ++ [b] else c.out
      rstate := match c.rstate with
        | .wait _ => .hdr []
        | r       => r } := by
  obtain ⟨r, o, out, inp, eof⟩ := c
  cases o <;> cases r <;> rfl

theorem SerialPort.release_deliver_eq (b : List Byte) (sp : SerialPort) :
    (sp.deliver b).release = { sp with
      out := if sp.isOpen then sp.out ++ [b] else sp.out
      rstate := match sp.rstate with
        | .wait _ => .check
        | r       => r } := by
  obtain ⟨r, o, out⟩ := sp
  cases o <;> cases r <;> rfl

/-- ROUTE writes the sources and the dispatcher's state, and no other field. -/
theorem routeResponse_eq (b : List Byte) (k : SinkId) (s : State) :
    routeResponse b k s = { s with
      dstate := .idle, listeners := (routeResponse b k s).listeners, ports := (routeResponse b k s).ports } := by
  obtain ⟨ls, ps, h⟩ := s.writeBack_eq b k
  rw [routeResponse, h]
  rfl

/-- Settles O37: the write step and the command both are `routeResponse`, which changes the one source it names. -/
theorem routeWritesToItsOwnSourceOnly : Obligations.RouteWritesToItsOwnSourceOnly := by
  unfold Obligations.RouteWritesToItsOwnSourceOnly
  refine ⟨fun s bytes k hd => ⟨routeResponse bytes k s, runMove_dispWrite hd, if_pos hd, routeResponse_eq bytes k s, ?_⟩,
    fun s bytes k hd => if_neg hd⟩
  have h := sourceStep_routeResponse s k bytes
  simp only [Conn.release_deliver_eq, SerialPort.release_deliver_eq] at h
  exact h

/-! The output of the sources. -/

theorem CoreEq.outOf {s t : State} (h : CoreEq s t) (k : SinkId) : t.outOf k = s.outOf k := by
  cases k with
  | tcp l n => simp only [State.outOf, State.conn?_congr h.listeners]
  | rtu p => simp only [State.outOf, State.port?_congr h.ports]

/-- The output after a change of the source `k'`: another source's is as it was, and that source's is as `R` says of the change. -/
theorem outOf_of_sourceStep {s t : State} {k' : SinkId} {f : Conn → Conn} {g : SerialPort → SerialPort}
    {R : List (List Byte) → List (List Byte) → Prop} (h : SourceStep s t k' f g)
    (hf : ∀ l n c, k' = .tcp l n → s.conn? l n = some c → R c.out (f c).out)
    (hg : ∀ p sp, k' = .rtu p → s.port? p = some sp → R sp.out (g sp).out) (k : SinkId) :
    t.outOf k = s.outOf k ∨ k' = k ∧ R (s.outOf k) (t.outOf k) := by
  by_cases hk : k' = k
  · cases k with
    | tcp l n =>
      cases hc : s.conn? l n with
      | none => simp [State.outOf, h.conns, hc]
      | some c => exact .inr ⟨hk, by simpa [State.outOf, h.conns, hc, hk] using hf l n c hk hc⟩
    | rtu p =>
      cases hp : s.port? p with
      | none => simp [State.outOf, h.ports, hp]
      | some sp => exact .inr ⟨hk, by simpa [State.outOf, h.ports, hp, hk] using hg p sp hk hp⟩
  · left
    cases k with
    | tcp l n => simp [State.outOf, h.conns, hk]
    | rtu p => simp [State.outOf, h.ports, hk]

/-- A change of one source that writes nothing to it leaves every output. -/
theorem outOf_of_silent {s t : State} {k' : SinkId} {f : Conn → Conn} {g : SerialPort → SerialPort} (h : SourceStep s t k' f g)
    (hf : ∀ l n c, k' = .tcp l n → s.conn? l n = some c → (f c).out = c.out)
    (hg : ∀ p sp, k' = .rtu p → s.port? p = some sp → (g sp).out = sp.out) (k : SinkId) : t.outOf k = s.outOf k := by
  rcases outOf_of_sourceStep (R := fun a b => b = a) h hf hg k with h | ⟨_, h⟩ <;> exact h

/-- A response routed reaches the source it names, as one element, or no source. -/
theorem outOf_routeResponse (b : List Byte) (k' : SinkId) (s : State) (k : SinkId) :
    (routeResponse b k' s).outOf k = s.outOf k ∨ k' = k ∧ (routeResponse b k' s).outOf k = s.outOf k ++ [b] := by
  have h := outOf_of_sourceStep (R := fun a a' => a' = a ∨ a' = a ++ [b]) (sourceStep_routeResponse s k' b)
    (fun _ _ c _ _ => by rw [Conn.release_deliver_eq]; cases c.isOpen <;> simp)
    (fun _ sp _ _ => by rw [SerialPort.release_deliver_eq]; cases sp.isOpen <;> simp) k
  rcases h with h | ⟨hk, h | h⟩
  · exact .inl h
  · exact .inl h
  · exact .inr ⟨hk, h⟩

/-- An accepted connection has been sent nothing, as a source that is not there (R41). -/
theorem outOf_accept {s : State} {l : Nat} {li : Listener} (h : s.listener? l = some li) (k : SinkId) :
    (s.setListener l { li with conns := li.conns ++ [Conn.fresh] }).outOf k = s.outOf k := by
  cases k with
  | rtu p => rfl
  | tcp l' n =>
    rw [State.outOf, State.conn?_accept h]
    split
    · rename_i hln
      obtain ⟨rfl, rfl⟩ := hln
      simp [State.outOf, State.conn?, h, Conn.fresh]
    · rfl

/-- A registered port has been sent nothing, as a source that is not there (R41). -/
theorem outOf_listenRtu (s : State) (k : SinkId) : (s.setPorts (s.ports ++ [SerialPort.fresh])).outOf k = s.outOf k := by
  cases k with
  | tcp l n => rfl
  | rtu p =>
    simp only [State.outOf, State.port?, State.setPorts_ports]
    rcases Nat.lt_trichotomy p s.ports.length with hp | rfl | hp
    · rw [List.getElem?_append_left hp]
    · simp [SerialPort.fresh]
    · rw [List.getElem?_eq_none (by simp; omega), List.getElem?_eq_none (by omega)]

/-- What a step can do to the output of the source `k`: nothing, or the write of one whole response that the dispatcher holds for it. -/
def OutStep (s t : State) (k : SinkId) : Prop :=
  t.outOf k = s.outOf k ∨ ∃ bytes, s.dstate = .write bytes k ∧ t.outOf k = s.outOf k ++ [bytes] ∧ t.dstate = .idle

theorem CoreStep.outStep {s t : State} (h : CoreStep s t) (k : SinkId) : OutStep s t k := by
  cases h with
  | route b k' hd =>
    rcases outOf_routeResponse b k' s k with h | ⟨rfl, h⟩
    · exact .inl h
    · exact .inr ⟨b, hd, h, rfl⟩
  | quiet | pop | dispStart | dispClose | start | shutdown => exact .inl rfl
  | push k' req => exact .inl (outOf_of_silent (sourceStep_startWait _ k' req) (fun _ _ _ _ _ => rfl) (fun _ _ _ _ => rfl) k)
  | drop k' => exact .inl (outOf_of_silent (sourceStep_closeSource s k') (fun _ _ _ _ _ => rfl) (fun _ _ _ _ => rfl) k)
  | conn l n c c' hc hstep =>
    refine .inl (outOf_of_silent (sourceStep_setConn hc c') ?_ nofun k)
    rintro _ _ x ⟨⟩ hx
    cases hc.symm.trans hx
    exact hstep.rstate.1
  | port p sp sp' hp hstep =>
    refine .inl (outOf_of_silent (sourceStep_setPort hp sp') nofun ?_ k)
    rintro _ x ⟨⟩ hx
    cases hp.symm.trans hx
    exact hstep.rstate.1
  | acc l li a hli =>
    cases k with
    | tcp l' n => exact .inl (by rw [State.outOf, State.conn?_setAcc hli]; rfl)
    | rtu p => exact .inl rfl
  | accept l li hli => exact .inl (outOf_accept hli k)
  | listenTcp =>
    cases k with
    | tcp l n => exact .inl (by rw [State.outOf, State.conn?_listenTcp]; rfl)
    | rtu p => exact .inl rfl
  | listenRtu => exact .inl (outOf_listenRtu s k)
  | complete =>
    cases k with
    | tcp l n => exact .inl (congrArg (fun c => (c.map Conn.out).getD []) (s.conn?_closeAccepts l n))
    | rtu p =>
      have h := congrArg (fun sp => (sp.map SerialPort.out).getD []) (s.port?_closePorts p)
      exact .inl (h.trans (by simp [State.outOf, Function.comp_def]))

/-- Settles O38: of the cases of `CoreStep` the dispatcher's write step alone writes to a source. -/
theorem outputReachesOnlyTheRequestingSource : Obligations.OutputReachesOnlyTheRequestingSource := by
  unfold Obligations.OutputReachesOnlyTheRequestingSource
  intro s t k h
  obtain ⟨s', u, hs, hu, ht⟩ := step_core h
  rw [ht.outOf, ht.dstate, ← hs.outOf, ← hs.dstate]
  exact hu.outStep k

end Sys2Proof.Machine
end

section
/-! O34 (R39, R40, R190, R200, R262). Who reaches bank and queue: the inversion of a step by what it stores (`StoreStep`) knows the
dispatcher's request arm and says that else the queue does not shrink; the one by what it does to the sources (`CoreStep`) knows the
reader's push. -/

namespace Sys2Proof.Machine

open Spec

/-- The push arm of a reader (R217 (a), R225), as far as queue and reader show it. -/
def Pushes (s t : State) : Prop :=
  ∃ k req, s.parsedRequest k = some req ∧ t.awaited k = some req ∧ s.queue.length < s.cfg.channelDepth ∧ t.queue = s.queue ++ [req]

/-- A reader that holds a parsed request waits for it after its push. -/
theorem awaited_startWait {s : State} {k : SinkId} {req : Request} (h : s.parsedRequest k = some req) :
    (s.startWait k req).awaited k = some req := by
  cases k with
  | tcp l n =>
    obtain ⟨c, hc, _⟩ := State.parsedRequest_tcp_iff.1 h
    exact State.awaited_tcp_iff.2 ⟨_, by rw [State.conn?_startWait, hc, Option.map_some, if_pos rfl], rfl⟩
  | rtu p =>
    obtain ⟨sp, hp, _⟩ := State.parsedRequest_rtu_iff.1 h
    exact State.awaited_rtu_iff.2 ⟨_, by rw [State.port?_startWait, hp, Option.map_some, if_pos rfl], rfl⟩

theorem CoreEq.parsedRequest {s t : State} (h : CoreEq s t) (k : SinkId) : t.parsedRequest k = s.parsedRequest k := by
  cases k with
  | tcp l n => simp only [State.parsedRequest, State.conn?_congr h.listeners]
  | rtu p => simp only [State.parsedRequest, State.port?_congr h.ports]

theorem CoreEq.awaited {s t : State} (h : CoreEq s t) (k : SinkId) : t.awaited k = s.awaited k := by
  cases k with
  | tcp l n => simp only [State.awaited, State.conn?_congr h.listeners]
  | rtu p => simp only [State.awaited, State.port?_congr h.ports]

/-- What a step can do to the queue: nothing, a pop or a push. -/
theorem CoreStep.queue {s t : State} (h : CoreStep s t) : t.queue = s.queue ∨ (∃ req, s.queue = req :: t.queue) ∨ Pushes s t := by
  cases h with
  | pop req rest b hd hq => exact .inr (.inl ⟨req, hq⟩)
  | push k req hr space => exact .inr (.inr ⟨k, req, hr, awaited_startWait (s := s.setQueue _) hr, space, by simp⟩)
  | route | drop | conn => exact .inl (by simp [routeResponse])
  | quiet | dispStart | dispClose | port | acc | accept | listenTcp | listenRtu | start | shutdown | complete => exact .inl rfl

theorem step_queue {s t : State} (h : step s = .next t) : t.queue = s.queue ∨ (∃ req, s.queue = req :: t.queue) ∨ Pushes s t := by
  obtain ⟨s', u, hs, hu, ht⟩ := step_core h
  simp only [Pushes, ht.queue, ht.awaited, ← hs.queue, ← hs.cfg, ← hs.parsedRequest]
  exact hu.queue

/-- A queue that kept its requests in front lost none. -/
theorem not_prefix_of_pop {q q' : List Request} {req : Request} (h : q = req :: q') : ¬ q <+: q' := fun hp =>
  absurd hp.length_le (by simp [h])

/-- HANDLE that completes, in the words of the statements. -/
theorem handleRequest_eq_ok {req : Request} {s s' : State} {b : List Byte} (h : handleRequest req s = .ok (b, s')) :
    b = wire (response req.frame (handling s req.frame)) ∧ s' = handled s req.frame := by
  rw [handleRequest_eq] at h
  split at h
  · cases h
    exact ⟨rfl, rfl⟩
  · cases h

/-- The request arm is `Spec.Takes`. -/
theorem takes_of_handleRequest {s s' : State} {req : Request} {rest : List Request} {b : List Byte} (r : Result)
    (hd : s.dstate = .idle) (hq : s.queue = req :: rest) (hr : handleRequest req s = .ok (b, s')) :
    Takes s (((s'.setQueue rest).setDispatcher (.write b req.sink)).report r) := by
  obtain ⟨rfl, rfl⟩ := handleRequest_eq_ok hr
  obtain ⟨_, _, hbank, _, _⟩ := taken_fields s req rest
  exact ⟨req, rest, hd, hq, rfl, hbank, rfl⟩

/-- What one input can do to bank and queue: the request arm; else the bank stays or the block is in `CONFIG`, and the queue does not
shrink. -/
theorem StoreStep.bank_queue {i : Input} {s t : State} (h : StoreStep i s t) :
    Takes s t ∨ ((s.life = .config ∨ t.bank = s.bank) ∧ s.queue <+: t.queue) := by
  cases h with
  | quiet h => exact .inr ⟨.inr h.bank, h.grows⟩
  | before _ hl _ _ _ _ _ hq => exact .inr ⟨.inl hl, hq ▸ List.prefix_rfl⟩
  | takes req rest b s' r _ hd hq hr ht => exact .inl (ht ▸ takes_of_handleRequest r hd hq hr)
  | fnSet _ _ _ _ _ _ _ ht | shutdown _ _ _ _ _ ht | stale _ _ _ _ _ _ ht | long _ _ _ _ _ _ ht | handle _ _ _ _ _ _ _ ht
  | pop _ _ _ _ _ _ ht => rw [ht]; exact .inr ⟨.inr rfl, List.prefix_rfl⟩

theorem step_bank_queue {s t : State} (h : step s = .next t) :
    Takes s t ∨ ((s.life = .config ∨ t.bank = s.bank) ∧ s.queue <+: t.queue) := by
  have hstep := (step_store h).bank_queue
  obtain ⟨is, d, hn⟩ := nextInput_state s
  rw [hn] at hstep
  exact hstep

/-- Settles O34: a step that is not the request arm shrinks no queue, so it pushes or leaves the queue. -/
theorem onlyTheDispatcherReachesBankAndQueue : Obligations.OnlyTheDispatcherReachesBankAndQueue := by
  unfold Obligations.OnlyTheDispatcherReachesBankAndQueue
  intro s t h
  rcases step_bank_queue h with ht | ⟨hbank, hgrows⟩
  · exact ⟨.inr (.inr ht), .inr (.inl ht)⟩
  · refine ⟨hbank.imp_right .inl, ?_⟩
    rcases step_queue h with hq | ⟨req, hq⟩ | hp
    · exact .inl hq
    · exact absurd hgrows (not_prefix_of_pop hq)
    · exact .inr (.inr hp)

end Sys2Proof.Machine
end

section
/-! O44, O45, O49 (R40, R194, R217 to R220, R225, R226). What a step can do to a source that is there, said once for a connection and
once for a port, and by it: a reader that waits reads nothing, a closed source is over, and a source has one request in the block. -/

namespace Sys2Proof.Machine

/-! What a step can do to one source. -/

/-- What a step from `s` to `t` can do to a connection with the sink id `k`: nothing, a step of its own, or the three that end or begin
a wait. -/
inductive ConnChange (s t : State) (k : SinkId) (c : Conn) : Conn → Prop
  | same : ConnChange s t k c c
  | own {c' : Conn} (h : ConnStep s.cfg s.close k c c') : ConnChange s t k c c'
  | push (req : Request) (h : c.rstate = .enq req) : ConnChange s t k c { c with rstate := .wait req }
  | drop (hc : s.close = true) : ConnChange s t k c c.teardown
  | route (b : List Byte) (h : s.dstate = .write b k) (ht : t.dstate = .idle) : ConnChange s t k c (c.deliver b).release

/-- As `ConnChange`, for a port, which the completion of `shutdown()` marks closed. -/
inductive PortChange (s t : State) (k : SinkId) (sp : SerialPort) : SerialPort → Prop
  | same : PortChange s t k sp sp
  | own {sp' : SerialPort} (h : PortStep s.life s.close k sp sp') : PortChange s t k sp sp'
  | push (req : Request) (h : sp.rstate = .enq req) : PortChange s t k sp { sp with rstate := .wait req }
  | drop (hc : s.close = true) : PortChange s t k sp sp.shut
  | route (b : List Byte) (h : s.dstate = .write b k) (ht : t.dstate = .idle) : PortChange s t k sp (sp.deliver b).release
  | complete (h : sp.rstate = .closed) : PortChange s t k sp { sp with isOpen := false }

section

variable {s t : State} {k : SinkId} {l n p : Nat} {c c' : Conn} {sp sp' : SerialPort} {req : Request}

/-- An operation on the source `k` changes a connection as it says, if that is the source, and else not. -/
theorem connChange_of_map {f : Conn → Conn} (ht : t.conn? l n = (s.conn? l n).map fun c => if k = .tcp l n then f c else c)
    (hc : s.conn? l n = some c) (hf : k = .tcp l n → ConnChange s t (.tcp l n) c (f c)) :
    ∃ c', t.conn? l n = some c' ∧ ConnChange s t (.tcp l n) c c' := by
  refine ⟨_, by rw [ht, hc]; rfl, ?_⟩
  split
  · rename_i hk; exact hf hk
  · exact .same

theorem portChange_of_map {g : SerialPort → SerialPort}
    (ht : t.port? p = (s.port? p).map fun sp => if k = .rtu p then g sp else sp)
    (hp : s.port? p = some sp) (hg : k = .rtu p → PortChange s t (.rtu p) sp (g sp)) :
    ∃ sp', t.port? p = some sp' ∧ PortChange s t (.rtu p) sp sp' := by
  refine ⟨_, by rw [ht, hp]; rfl, ?_⟩
  split
  · rename_i hk; exact hg hk
  · exact .same

theorem CoreStep.connChange (h : CoreStep s t) (hc : s.conn? l n = some c) :
    ∃ c', t.conn? l n = some c' ∧ ConnChange s t (.tcp l n) c c' := by
  cases h with
  | quiet | pop | dispStart | dispClose | port | listenRtu | start | shutdown => exact ⟨c, hc, .same⟩
  | route b k hd => exact connChange_of_map (s.conn?_writeBack b k l n) hc fun hk => .route b (hk ▸ hd) rfl
  | push k req hr =>
    refine connChange_of_map (State.conn?_startWait k req _ l n) hc ?_
    rintro rfl
    obtain ⟨x, hx, hr⟩ := State.parsedRequest_tcp_iff.1 hr
    cases hx.symm.trans hc
    exact .push req hr
  | drop k _ hcl => exact connChange_of_map (s.conn?_closeSource k l n) hc fun _ => .drop hcl
  | conn l' n' x x' hx hstep =>
    refine connChange_of_map ((sourceStep_setConn hx x').conns l n) hc ?_
    rintro ⟨⟩
    cases hx.symm.trans hc
    exact .own hstep
  | acc l' li a hli => exact ⟨c, (State.conn?_setAcc hli a l n).trans hc, .same⟩
  | accept l' li hli =>
    refine ⟨c, ?_, .same⟩
    rw [State.conn?_accept hli, if_neg, hc]
    rintro ⟨rfl, rfl⟩
    simp [State.conn?, hli] at hc
  | listenTcp => exact ⟨c, (s.conn?_listenTcp l n).trans hc, .same⟩
  | complete => exact ⟨c, (s.conn?_closeAccepts l n).trans hc, .same⟩

theorem CoreStep.portChange (h : CoreStep s t) (hp : s.port? p = some sp) :
    ∃ sp', t.port? p = some sp' ∧ PortChange s t (.rtu p) sp sp' := by
  cases h with
  | quiet | pop | dispStart | dispClose | acc | accept | listenTcp | start | shutdown => exact ⟨sp, hp, .same⟩
  | conn => exact ⟨sp, by simpa using hp, .same⟩
  | route b k hd => exact portChange_of_map (s.port?_writeBack b k p) hp fun hk => .route b (hk ▸ hd) rfl
  | push k req hr =>
    refine portChange_of_map (State.port?_startWait k req _ p) hp ?_
    rintro rfl
    obtain ⟨x, hx, hr⟩ := State.parsedRequest_rtu_iff.1 hr
    cases hx.symm.trans hp
    exact .push req hr
  | drop k _ hcl => exact portChange_of_map (s.port?_closeSource k p) hp fun _ => .drop hcl
  | port p' x x' hx hstep =>
    refine portChange_of_map ((sourceStep_setPort hx x').ports p) hp ?_
    rintro ⟨⟩
    cases hx.symm.trans hp
    exact .own hstep
  | listenRtu => exact ⟨sp, (List.getElem?_append_left (List.getElem?_eq_some_iff.1 hp).1).trans hp, .same⟩
  | complete _ hr =>
    exact ⟨_, (s.port?_closePorts p).trans (congrArg _ hp), .complete ((s.readersClosed_iff.1 hr).2 p sp hp)⟩

/-! A reader that waits. -/

theorem ConnChange.of_wait (h : ConnChange s t k c c') (hr : c.rstate = .wait req) :
    (c'.rstate = .wait req ∧ ∃ more, c'.inp = c.inp ++ more) ∨
    (c'.rstate = .hdr [] ∧ c'.inp = c.inp ∧ ∃ b, s.dstate = .write b k ∧ t.dstate = .idle) ∨
    (c'.rstate = .closed ∧ s.close = true) := by
  cases h with
  | same => exact .inl ⟨hr, [], by simp⟩
  | own h =>
    rcases h.rstate.2 with ⟨hk, more, hm, _⟩ | hread
    · exact .inl ⟨hk.trans hr, more, hm⟩
    · simp [hr] at hread
  | push _ he => cases hr.symm.trans he
  | drop hc => exact .inr (.inr ⟨rfl, hc⟩)
  | route b hd ht => exact .inr (.inl ⟨by simp [Conn.release_deliver_eq, hr], by simp [Conn.release_deliver_eq], b, hd, ht⟩)

theorem PortChange.of_wait (h : PortChange s t k sp sp') (hr : sp.rstate = .wait req) :
    (sp'.rstate = .wait req ∧ sp'.out = sp.out) ∨
    (sp'.rstate = .check ∧ ∃ b, s.dstate = .write b k ∧ t.dstate = .idle) ∨
    (sp'.rstate = .closed ∧ s.close = true) := by
  cases h with
  | same => exact .inl ⟨hr, rfl⟩
  | own h => simpa [hr] using h.rstate.2
  | push _ he => cases hr.symm.trans he
  | drop hc => exact .inr (.inr ⟨rfl, hc⟩)
  | route b hd ht => exact .inr (.inl ⟨by simp [SerialPort.release_deliver_eq, hr], b, hd, ht⟩)
  | complete he => cases hr.symm.trans he

/-! A closed source. -/

theorem State.sourceClosed_tcp_iff : s.sourceClosed (.tcp l n) = true ↔ ∃ c, s.conn? l n = some c ∧ c.rstate = .closed := by
  simp [State.sourceClosed, Option.any_eq_true]

theorem State.sourceClosed_rtu_iff : s.sourceClosed (.rtu p) = true ↔ ∃ sp, s.port? p = some sp ∧ sp.rstate = .closed := by
  simp [State.sourceClosed, Option.any_eq_true]

theorem CoreEq.sourceClosed (h : CoreEq s t) (k : SinkId) : t.sourceClosed k = s.sourceClosed k := by
  cases k with
  | tcp l n => simp only [State.sourceClosed, State.conn?_congr h.listeners]
  | rtu p => simp only [State.sourceClosed, State.port?_congr h.ports]

/-- A sound closed connection stays closed, and a response to it is discarded. -/
theorem ConnChange.of_closed (h : ConnChange s t k c c') (hw : c.wf k) (hr : c.rstate = .closed) :
    c'.rstate = .closed ∧ c'.out = c.out := by
  have ho : c.isOpen ≠ true := fun ho => hw.openIff.1 ho hr
  cases h with
  | same => exact ⟨hr, rfl⟩
  | own h => exact ⟨h.rstate_closed hr, h.rstate.1⟩
  | push _ he => cases hr.symm.trans he
  | drop => exact ⟨rfl, rfl⟩
  | route b => exact ⟨Conn.deliver_release_closed b hr, by simp [Conn.release_deliver_eq, ho]⟩

theorem PortChange.of_closed (h : PortChange s t k sp sp') (hw : sp.wf k) (hr : sp.rstate = .closed) :
    sp'.rstate = .closed ∧ sp'.out = sp.out := by
  have ho : sp.isOpen ≠ true := fun ho => hw.openIff.1 ho hr
  cases h with
  | same => exact ⟨hr, rfl⟩
  | own h => simpa [hr] using h.rstate.2
  | push _ he => cases hr.symm.trans he
  | drop => exact ⟨rfl, rfl⟩
  | route b => exact ⟨SerialPort.deliver_release_closed b hr, by simp [SerialPort.release_deliver_eq, ho]⟩
  | complete => exact ⟨hr, rfl⟩

theorem CoreStep.of_closed (h : CoreStep s t) (hw : s.SourcesWf) (hk : s.sourceClosed k = true) :
    t.sourceClosed k = true ∧ t.outOf k = s.outOf k := by
  cases k with
  | tcp l n =>
    obtain ⟨c, hc, hr⟩ := State.sourceClosed_tcp_iff.1 hk
    obtain ⟨c', hc', hch⟩ := h.connChange hc
    obtain ⟨hr', ho⟩ := hch.of_closed (hw.conns l n c hc) hr
    exact ⟨State.sourceClosed_tcp_iff.2 ⟨c', hc', hr'⟩, by simp [State.outOf, hc, hc', ho]⟩
  | rtu p =>
    obtain ⟨sp, hp, hr⟩ := State.sourceClosed_rtu_iff.1 hk
    obtain ⟨sp', hp', hch⟩ := h.portChange hp
    obtain ⟨hr', ho⟩ := hch.of_closed (hw.ports p sp hp) hr
    exact ⟨State.sourceClosed_rtu_iff.2 ⟨sp', hp', hr'⟩, by simp [State.outOf, hp, hp', ho]⟩

/-! One outstanding request per source. -/

/-- A reader that waits goes on waiting, unless the close signal or the response to its own source ends the wait. -/
theorem CoreStep.of_awaited (h : CoreStep s t) (ha : s.awaited k = some req) :
    t.awaited k = some req ∨ (t.sourceClosed k = true ∧ s.close = true) ∨ ∃ b, s.dstate = .write b k ∧ t.dstate = .idle := by
  cases k with
  | tcp l n =>
    obtain ⟨c, hc, hr⟩ := State.awaited_tcp_iff.1 ha
    obtain ⟨c', hc', hch⟩ := h.connChange hc
    rcases hch.of_wait hr with ⟨hr', _⟩ | ⟨_, _, hd⟩ | ⟨hr', hcl⟩
    · exact .inl (State.awaited_tcp_iff.2 ⟨c', hc', hr'⟩)
    · exact .inr (.inr hd)
    · exact .inr (.inl ⟨State.sourceClosed_tcp_iff.2 ⟨c', hc', hr'⟩, hcl⟩)
  | rtu p =>
    obtain ⟨sp, hp, hr⟩ := State.awaited_rtu_iff.1 ha
    obtain ⟨sp', hp', hch⟩ := h.portChange hp
    rcases hch.of_wait hr with ⟨hr', _⟩ | ⟨_, hd⟩ | ⟨hr', hcl⟩
    · exact .inl (State.awaited_rtu_iff.2 ⟨sp', hp', hr'⟩)
    · exact .inr (.inr hd)
    · exact .inr (.inl ⟨State.sourceClosed_rtu_iff.2 ⟨sp', hp', hr'⟩, hcl⟩)

/-- A reader that holds a parsed request neither waits nor is closed. -/
theorem State.idle_of_parsedRequest (h : s.parsedRequest k = some req) : s.awaited k = none ∧ s.sourceClosed k = false := by
  cases k with
  | tcp l n =>
    obtain ⟨⟨_, _, _, _, _⟩, hc, rfl⟩ := State.parsedRequest_tcp_iff.1 h
    simp [State.awaited, State.sourceClosed, hc]
  | rtu p =>
    obtain ⟨⟨_, _, _⟩, hp, rfl⟩ := State.parsedRequest_rtu_iff.1 h
    simp [State.awaited, State.sourceClosed, hp]

/-- The request a sound reader holds names the reader's own sink (R210). -/
theorem State.SourcesWf.sink_of_parsedRequest (hw : s.SourcesWf) (h : s.parsedRequest k = some req) : req.sink = k := by
  cases k with
  | tcp l n =>
    obtain ⟨c, hc, hr⟩ := State.parsedRequest_tcp_iff.1 h
    have hreq := (hw.conns l n c hc).reader
    rw [hr] at hreq
    exact hreq.1
  | rtu p =>
    obtain ⟨sp, hp, hr⟩ := State.parsedRequest_rtu_iff.1 h
    have hreq := (hw.ports p sp hp).reader
    rw [hr] at hreq
    exact hreq.1

theorem State.outstanding_eq_zero (hq : ∀ r ∈ s.queue, r.sink ≠ k) (hd : ∀ b, s.dstate ≠ .write b k) : s.outstanding k = 0 := by
  have hcount : s.queue.countP (fun r => decide (r.sink = k)) = 0 := by simpa [List.countP_eq_zero] using hq
  unfold State.outstanding
  rw [hcount]
  split
  · rename_i b k' hw
    rw [if_neg]
    rintro rfl
    exact hd b hw
  · rfl

/-- A reader pushes nothing while a request of its source is in the block. -/
theorem State.OneOutstanding.outstanding_of_parsedRequest (ho : s.OneOutstanding) (h : s.parsedRequest k = some req) :
    s.outstanding k = 0 := by
  obtain ⟨ha, hcl⟩ := State.idle_of_parsedRequest h
  refine State.outstanding_eq_zero ?_ fun b hd => ?_
  · rintro r hr rfl
    simpa [ha, hcl] using ho.queued r hr
  · simpa [ha, hcl] using ho.writing b k hd

/-- No request in the queue is of the source that the dispatcher is writing to. -/
theorem State.OneOutstanding.sink_ne_of_writing (ho : s.OneOutstanding) {b : List Byte} (hd : s.dstate = .write b k) {r : Request}
    (hr : r ∈ s.queue) : r.sink ≠ k := by
  rintro rfl
  have hpos : 0 < s.queue.countP (fun x => decide (x.sink = r.sink)) := List.countP_pos_iff.2 ⟨r, hr, by simp⟩
  have hone := ho.once r.sink
  simp only [State.outstanding, hd, if_true] at hone
  omega

/-- A step adds a request to those outstanding only by the push of a reader that holds one. -/
theorem CoreStep.outstanding_le (h : CoreStep s t) (hw : s.SourcesWf) (k : SinkId) :
    t.outstanding k ≤ s.outstanding k ∨ ((s.parsedRequest k).isSome = true ∧ t.outstanding k ≤ s.outstanding k + 1) := by
  cases h with
  | quiet | port | acc | accept | listenTcp | listenRtu | start | shutdown | complete => exact .inl le_rfl
  | drop | conn => exact .inl (by simp [State.outstanding])
  | route => exact .inl (by simp [State.outstanding, routeResponse])
  | dispStart | dispClose => exact .inl (by simp [State.outstanding])
  | pop req rest b hd hq => exact .inl (by simp [State.outstanding, hd, hq, List.countP_cons])
  | push k' req hr =>
    have hsink := hw.sink_of_parsedRequest hr
    by_cases hk : k' = k
    · subst hk
      exact .inr ⟨by simp [hr], by simp [State.outstanding, List.countP_append, hsink]; omega⟩
    · exact .inl (by simp [State.outstanding, List.countP_append, hsink, hk])

theorem CoreStep.mem_queue (h : CoreStep s t) (hw : s.SourcesWf) {r : Request} (hr : r ∈ t.queue) :
    r ∈ s.queue ∨ t.awaited r.sink = some r := by
  rcases h.queue with hq | ⟨req, hq⟩ | ⟨k, req, hp, ha, _, hq⟩
  · exact .inl (hq ▸ hr)
  · exact .inl (hq ▸ List.mem_cons_of_mem req hr)
  · rw [hq, List.mem_append, List.mem_singleton] at hr
    rcases hr with hr | rfl
    · exact .inl hr
    · exact .inr (hw.sink_of_parsedRequest hp ▸ ha)

/-- A response is being written that was being written before, or whose request was in the queue. -/
theorem CoreStep.of_write (h : CoreStep s t) {b : List Byte} (hd : t.dstate = .write b k) :
    s.dstate = .write b k ∨ ∃ r ∈ s.queue, r.sink = k := by
  cases h with
  | quiet | port | acc | accept | listenTcp | listenRtu | start | shutdown | complete => exact .inl hd
  | push | drop | conn => exact .inl (by simpa using hd)
  | route | dispStart | dispClose => cases hd
  | pop req rest b' _ hq => cases hd; exact .inr ⟨req, by simp [hq], rfl⟩

theorem CoreStep.cfg (h : CoreStep s t) : t.cfg = s.cfg := by
  cases h with
  | push | drop | conn | route => simp [routeResponse]
  | _ => rfl

theorem CoreStep.oneOutstanding (h : CoreStep s t) (hw : s.SourcesWf) (ho : s.OneOutstanding) : t.OneOutstanding where
  once k := by
    rcases h.outstanding_le hw k with hle | ⟨hp, hle⟩
    · exact hle.trans (ho.once k)
    · obtain ⟨req, hp⟩ := Option.isSome_iff_exists.1 hp
      rwa [ho.outstanding_of_parsedRequest hp] at hle
  queued r hr := by
    rcases h.mem_queue hw hr with hr | ha
    · rcases ho.queued r hr with ha | hc
      · rcases h.of_awaited ha with ha | ⟨hc, _⟩ | ⟨b, hd, _⟩
        · exact .inl ha
        · exact .inr hc
        · exact absurd rfl (ho.sink_ne_of_writing hd hr)
      · exact .inr (h.of_closed hw hc).1
    · exact .inl ha
  writing b k hd := by
    have hs : (s.awaited k).isSome = true ∨ s.sourceClosed k = true := by
      rcases h.of_write hd with hd | ⟨r, hr, rfl⟩
      · exact ho.writing b k hd
      · exact (ho.queued r hr).imp_left fun ha => by simp [ha]
    rcases hs with ha | hc
    · obtain ⟨req, ha⟩ := Option.isSome_iff_exists.1 ha
      rcases h.of_awaited ha with ha | ⟨hc, _⟩ | ⟨_, _, hi⟩
      · exact .inl (by simp [ha])
      · exact .inr hc
      · cases hd.symm.trans hi
    · exact .inr (h.of_closed hw hc).1
  live hcl r hr := by
    have hs : ¬ s.close = true := fun hs => by simp [h.life.close_mono hs] at hcl
    rcases h.mem_queue hw hr with hr | ha
    · rcases h.of_awaited (ho.live (by simpa using hs) r hr) with ha | ⟨_, hc⟩ | ⟨b, hd, _⟩
      · exact ha
      · exact absurd hc hs
      · exact absurd rfl (ho.sink_ne_of_writing hd hr)
    · exact ha
  bounded := by
    rw [h.cfg]
    have hb := ho.bounded
    rcases h.queue with hq | ⟨req, hq⟩ | ⟨_, _, _, _, hlt, hq⟩
    · rwa [hq]
    · rw [hq, List.length_cons] at hb; omega
    · rw [hq, List.length_append, List.length_singleton]; omega

theorem State.OneOutstanding.congr (h : CoreEq s t) (ho : s.OneOutstanding) : t.OneOutstanding where
  once k := by simpa only [State.outstanding, h.queue, h.dstate] using ho.once k
  queued := by simpa only [h.queue, h.awaited, h.sourceClosed] using ho.queued
  writing := by simpa only [h.dstate, h.awaited, h.sourceClosed] using ho.writing
  live := by simpa only [h.close, h.queue, h.awaited] using ho.live
  bounded := by simpa only [h.queue, h.cfg] using ho.bounded

/-! The sources there are bound the queue. -/

theorem State.tcp_mem_sinks : .tcp l n ∈ s.sinks ↔ (s.conn? l n).isSome = true := by
  cases hl : s.listeners[l]? <;> simp [State.sinks, State.conn?, State.listener?, List.mem_zipIdx_iff_getElem?, hl]

theorem State.rtu_mem_sinks : .rtu p ∈ s.sinks ↔ (s.port? p).isSome = true := by
  simp [State.sinks, State.port?]

theorem State.mem_sinks_of_awaited (h : s.awaited k = some req) : k ∈ s.sinks := by
  cases k with
  | tcp l n => obtain ⟨c, hc, _⟩ := State.awaited_tcp_iff.1 h; simp [State.tcp_mem_sinks, hc]
  | rtu p => obtain ⟨sp, hp, _⟩ := State.awaited_rtu_iff.1 h; simp [State.rtu_mem_sinks, hp]

theorem State.mem_sinks_of_sourceClosed (h : s.sourceClosed k = true) : k ∈ s.sinks := by
  cases k with
  | tcp l n => obtain ⟨c, hc, _⟩ := State.sourceClosed_tcp_iff.1 h; simp [State.tcp_mem_sinks, hc]
  | rtu p => obtain ⟨sp, hp, _⟩ := State.sourceClosed_rtu_iff.1 h; simp [State.rtu_mem_sinks, hp]

/-- The source of a reader that waits is open. -/
theorem State.SourcesWf.openOf_of_awaited (hw : s.SourcesWf) (h : s.awaited k = some req) : s.openOf k = true := by
  cases k with
  | tcp l n =>
    obtain ⟨c, hc, hr⟩ := State.awaited_tcp_iff.1 h
    simp [State.openOf, hc, (hw.conns l n c hc).openIff, hr]
  | rtu p =>
    obtain ⟨sp, hp, hr⟩ := State.awaited_rtu_iff.1 h
    simp [State.openOf, hp, (hw.ports p sp hp).openIff, hr]

theorem State.OneOutstanding.nodup_queue_sinks (ho : s.OneOutstanding) : (s.queue.map Request.sink).Nodup := by
  refine List.nodup_iff_count_le_one.2 fun k => ?_
  calc (s.queue.map Request.sink).count k
      = s.queue.countP (fun r => decide (r.sink = k)) := by rw [List.count, List.countP_map]; rfl
    _ ≤ s.outstanding k := Nat.le_add_right _ _
    _ ≤ 1 := ho.once k

/-- Requests of different sources are at most as many as the sources they come from. -/
theorem State.OneOutstanding.queue_length_le (ho : s.OneOutstanding) {ks : List SinkId} (h : ∀ r ∈ s.queue, r.sink ∈ ks) :
    s.queue.length ≤ ks.length := by
  have hsub : s.queue.map Request.sink ⊆ ks := by simpa [List.subset_def] using h
  simpa using (ho.nodup_queue_sinks.subperm hsub).length_le

end

/-- Settles O44: of what a step can do to a waiting reader, only a response to its source and the close signal end the wait. -/
theorem waitingReaderReadsNoByte : Obligations.WaitingReaderReadsNoByte := by
  unfold Obligations.WaitingReaderReadsNoByte
  constructor
  · intro s t l n c req h hc hr
    obtain ⟨s', u, hs, hu, ht⟩ := step_core h
    rw [← State.conn?_congr hs.listeners] at hc
    obtain ⟨c', hc', hch⟩ := hu.connChange hc
    rw [← hs.dstate, ← hs.close]
    exact ⟨c', (State.conn?_congr ht.listeners l n).trans hc',
      (hch.of_wait hr).imp_right (.imp_left fun ⟨hk, hi, b, hd, _⟩ => ⟨hk, hi, b, hd⟩)⟩
  · intro s t p sp req h hp hr
    obtain ⟨s', u, hs, hu, ht⟩ := step_core h
    rw [← State.port?_congr hs.ports] at hp
    obtain ⟨sp', hp', hch⟩ := hu.portChange hp
    rw [← hs.dstate, ← hs.close]
    exact ⟨sp', (State.port?_congr ht.ports p).trans hp',
      (hch.of_wait hr).imp_right (.imp_left fun ⟨hk, b, hd, _⟩ => ⟨hk, b, hd⟩)⟩

/-- Settles O45: a closed reader has no step of its own, and a sound closed source is not open, so what is routed to it is dropped. -/
theorem closedSourcesStayClosed : Obligations.ClosedSourcesStayClosed := by
  unfold Obligations.ClosedSourcesStayClosed
  intro s t k hw h hk
  obtain ⟨s', u, hs, hu, ht⟩ := step_core h
  rw [ht.sourceClosed, ht.outOf, ← hs.outOf]
  exact hu.of_closed (hw.congr hs) ((hs.sourceClosed k).trans hk)

/-- Settles O49: a reader that pushes neither waits nor is closed, so its source has no request in the block. -/
theorem oneOutstandingRequestPerSource : Obligations.OneOutstandingRequestPerSource := by
  unfold Obligations.OneOutstandingRequestPerSource
  refine ⟨fun s t h hw ho => ?_, fun s hw ho => ⟨le_min ho.bounded ?_, fun hcl => le_min ho.bounded ?_⟩⟩
  · obtain ⟨s', u, hs, hu, ht⟩ := step_core h
    exact (hu.oneOutstanding (hw.congr hs) (ho.congr hs)).congr ht
  · exact ho.queue_length_le fun r hr => (ho.queued r hr).elim State.mem_sinks_of_awaited State.mem_sinks_of_sourceClosed
  · rw [State.openSources, List.countP_eq_length_filter]
    refine ho.queue_length_le fun r hr => List.mem_filter.2 ?_
    have ha := ho.live hcl r hr
    exact ⟨State.mem_sinks_of_awaited ha, hw.openOf_of_awaited ha⟩

end Sys2Proof.Machine
end

section
/-! O40 to O43 (R211 to R213, R220 to R224, R227, R262). The readers' own steps: a move of one source completes by the step of that
source, and changes no other. -/

namespace Sys2Proof.Machine

open Spec

/-! A move of one source. -/

section

variable {s t : State} {l n p k : Nat} {c c' : Conn} {sp sp' : SerialPort} {m : Move}

theorem State.onConn_of_some {f : Conn → Option Conn} (hc : s.conn? l n = some c) (hf : f c = some c') :
    s.onConn l n f = some (s.setConn l n c') := State.onConn_eq_some.2 ⟨c, c', hc, hf, rfl⟩

theorem State.onPort_of_some {f : SerialPort → Option SerialPort} (hp : s.port? p = some sp) (hf : f sp = some sp') :
    s.onPort p f = some (s.setPort p sp') := State.onPort_eq_some.2 ⟨sp, sp', hp, hf, rfl⟩

theorem orWait_onConn_of_none {f : Conn → Option Conn} (hc : s.conn? l n = some c) (hf : f c = none) :
    orWait s (s.onConn l n f) = .next s := by
  simp [State.onConn, hc, hf, orWait]

/-- A move of a connection that is enabled completes by its step and changes nothing else. -/
theorem connMove_of_some {f : Conn → Option Conn} (hm : runMove m s = orWait s (s.onConn l n f)) (hc : s.conn? l n = some c)
    (hf : f c = some c') : ConnMove m s l n c' := by
  refine ⟨s.setConn l n c', by rw [hm, State.onConn_of_some hc hf]; rfl, ?_, sourceStep_setConn hc c'⟩
  obtain ⟨ls, h⟩ := s.setConn_eq l n c'
  rw [h]
  rfl

/-- A move of a port that is enabled completes by its step and changes nothing else. -/
theorem portMove_of_some {f : SerialPort → Option SerialPort} (hm : runMove m s = orWait s (s.onPort p f))
    (hp : s.port? p = some sp) (hf : f sp = some sp') : PortMove m s p sp' :=
  ⟨s.setPort p sp', by rw [hm, State.onPort_of_some hp hf]; rfl, rfl, sourceStep_setPort hp sp'⟩

/-! The reads and the parse of a TCP reader (R211 to R213). -/

theorem Conn.readHeader_of_hdr {h : List Byte} (hr : c.rstate = .hdr h) (h1 : 1 ≤ k) (hk : k ≤ min (7 - h.length) c.inp.length) :
    c.readHeader k = some (
      if (h ++ c.inp.take k).length < 7 then { c with rstate := .hdr (h ++ c.inp.take k), inp := c.inp.drop k }
      else if beWord (h ++ c.inp.take k) 4 = 0#16 then c.teardown
      else { c with
        rstate := .body (h ++ c.inp.take k) ((beWord (h ++ c.inp.take k) 4).toNat - 1) []
        inp := c.inp.drop k }) := by
  simp only [Conn.readHeader, hr, if_pos (And.intro h1 hk), apply_ite some]
  rfl

theorem Conn.readBody_of_body {h b : List Byte} {need : Nat} (hr : c.rstate = .body h need b) (h1 : 1 ≤ k)
    (hk : k ≤ min need c.inp.length) :
    c.readBody k = some { c with rstate := .body h (need - k) (b ++ c.inp.take k), inp := c.inp.drop k } := by
  simp only [Conn.readBody, hr, if_pos (And.intro h1 hk)]

theorem Conn.parse_of_full {cfg : Params} {sink : SinkId} {h b : List Byte} (hr : c.rstate = .body h 0 b) :
    c.parse cfg sink = some (
      if (h ++ b).length < 8 ∨ cfg.tcpLengthCheck = .strict ∧ (beWord (h ++ b) 4).toNat ≠ (h ++ b).length - 6 then c.teardown
      else { c with
        rstate := .enq ⟨.tcp ⟨beWord (h ++ b) 0, beWord (h ++ b) 2, byteAt (h ++ b) 6, byteAt (h ++ b) 7, (h ++ b).drop 8⟩, sink⟩ }) := by
  simp only [Conn.parse, hr, parseTcp]
  by_cases h8 : (h ++ b).length < 8
  · simp only [if_pos h8, if_pos (Or.inl h8)]
  · by_cases hl : cfg.tcpLengthCheck = .strict ∧ (beWord (h ++ b) 4).toNat ≠ (h ++ b).length - 6
    · simp only [if_neg h8, if_pos hl, if_pos (Or.inr hl)]
    · simp only [if_neg h8, if_neg hl, if_neg (not_or.2 ⟨h8, hl⟩)]

/-! One frame and no more (R227). -/

/-- What a TCP reader has taken of the input `c₀` had when its header buffer was empty, as far as it has come with one frame: the bytes in
its buffers, which the input of `c` follows; and nothing is written to the source. -/
def Conn.TakenFrom (c₀ c : Conn) : Prop :=
  match c.rstate with
  | .hdr h            => c₀.inp = h ++ c.inp ∧ h.length < 7 ∧ c.out = c₀.out ∧ c.isOpen = c₀.isOpen
  | .body head need b => c₀.inp = head ++ b ++ c.inp ∧ head.length = 7 ∧ need + b.length + 1 = (beWord head 4).toNat ∧
      c.out = c₀.out ∧ c.isOpen = c₀.isOpen
  | _                 => True

theorem Conn.TakenFrom.readHeader {c₀ : Conn} (ht : c₀.TakenFrom c) (h : c.readHeader k = some c') : c₀.TakenFrom c' := by
  obtain ⟨hbuf, hr, _, hk, hc'⟩ := Conn.readHeader_eq_some h
  simp only [Conn.TakenFrom, hr] at ht
  obtain ⟨hinp, _, hout, hopen⟩ := ht
  rcases hc' with ⟨hlt, rfl⟩ | ⟨_, _, rfl⟩ | ⟨h7, hz, rfl⟩
  · exact ⟨by simp [hinp], by simp; omega, hout, hopen⟩
  · trivial
  · have hpos : (beWord (hbuf ++ c.inp.take k) 4).toNat ≠ 0 := fun h0 => hz (BitVec.eq_of_toNat_eq h0)
    exact ⟨by simp [hinp], by simp; omega, by simp only [List.length_nil]; omega, hout, hopen⟩

theorem Conn.TakenFrom.readBody {c₀ : Conn} (ht : c₀.TakenFrom c) (h : c.readBody k = some c') : c₀.TakenFrom c' := by
  obtain ⟨head, need, bbuf, hr, _, hk, rfl⟩ := Conn.readBody_eq_some h
  simp only [Conn.TakenFrom, hr] at ht
  obtain ⟨hinp, h7, hneed, hout, hopen⟩ := ht
  exact ⟨by simp [hinp], h7, by simp only [List.length_append, List.length_take]; omega, hout, hopen⟩

/-- A header or body read as one of the moves of `TcpReaderTakesExactlyOneFrame`. -/
def readMove (l n : Nat) (r : Bool × Nat) : Move := if r.1 then .tcpHeader l n r.2 else .tcpBody l n r.2

theorem takenFrom_onConn {c₀ : Conn} {f : Conn → Option Conn} (h : orWait s (s.onConn l n f) = .next t)
    (hf : ∀ c', f c = some c' → c₀.TakenFrom c') (hc : s.conn? l n = some c) (ht : c₀.TakenFrom c) :
    ∃ c', t.conn? l n = some c' ∧ c₀.TakenFrom c' := by
  rcases orWait_eq_next h with h | rfl
  · obtain ⟨x, c', hx, hfx, rfl⟩ := State.onConn_eq_some.1 h
    cases hx.symm.trans hc
    exact ⟨c', by simp [State.conn?_setConn hc], hf c' hfx⟩
  · exact ⟨c, hc, ht⟩

theorem takenFrom_readMove {c₀ : Conn} {r : Bool × Nat} (h : runMove (readMove l n r) s = .next t) (hc : s.conn? l n = some c)
    (ht : c₀.TakenFrom c) : ∃ c', t.conn? l n = some c' ∧ c₀.TakenFrom c' := by
  obtain ⟨_ | _, k⟩ := r
  · exact takenFrom_onConn (f := Conn.readBody k) h (fun _ => ht.readBody) hc ht
  · exact takenFrom_onConn (f := Conn.readHeader k) h (fun _ => ht.readHeader) hc ht

theorem takenFrom_readMoves {c₀ : Conn} (reads : List (Bool × Nat)) (h : runMoves (reads.map (readMove l n)) s = .next t)
    (hc : s.conn? l n = some c) (ht : c₀.TakenFrom c) : ∃ c', t.conn? l n = some c' ∧ c₀.TakenFrom c' := by
  induction reads generalizing s c with
  | nil => cases h; exact ⟨c, hc, ht⟩
  | cons r reads ih =>
    simp only [List.map_cons, runMoves] at h
    split at h
    · rename_i u hu
      obtain ⟨c', hc', ht'⟩ := takenFrom_readMove hu hc ht
      exact ih h hc' ht'
    · cases h
    · cases h

/-! The reads of an RTU reader (R222). -/

theorem SerialPort.readChunk_of_block {sink : SinkId} {chunk : List Byte} (hr : sp.rstate = .block) (hl : chunk.length ≤ 512) :
    sp.readChunk sink chunk = some (
      if chunk.length < 4 ∨ crcOf (chunk.take (chunk.length - 2)) ≠
          ofHiLo (chunk.getD (chunk.length - 1) 0#8) (chunk.getD (chunk.length - 2) 0#8) then
        { sp with rstate := .check }
      else
        { sp with
          rstate := .enq ⟨.rtu ⟨chunk.getD 0 0#8, chunk.getD 1 0#8, (chunk.take (chunk.length - 2)).drop 2⟩, sink⟩ }) := by
  simp only [SerialPort.readChunk, if_pos (And.intro hr hl)]
  by_cases h4 : chunk.length < 4
  · simp only [parseRtu_of_short h4, if_pos (Or.inl h4), ite_self]
  · have hne : chunk ≠ [] := by rintro rfl; exact h4 (by decide)
    rw [← crcTrailer_eq_ofHiLo (by omega)]
    by_cases hcrc : crcOf (chunk.take (chunk.length - 2)) ≠ crcTrailer chunk
    · have hparse : parseRtu chunk = .error .crcMismatch := (if_neg h4).trans (if_pos hcrc)
      simp only [if_neg hne, hparse, if_pos (Or.inr hcrc)]
    · have hparse : parseRtu chunk = .ok ⟨_, _, _⟩ := (if_neg h4).trans (if_neg hcrc)
      simp only [if_neg hne, hparse, if_neg (not_or.2 ⟨h4, hcrc⟩)]
      rfl

theorem sourceStep_afterRtuParse {k : SinkId} {f : Conn → Conn} {g : SerialPort → SerialPort} (h : SourceStep s t k f g)
    (b : List Byte) : SourceStep s (t.afterRtuParse b) k f g := by
  unfold State.afterRtuParse
  split
  · exact h
  · exact ⟨h.conns, h.ports, h.accepts⟩

/-- A read that is enabled completes by the port's step, and writes at most the CRC register besides. -/
theorem serialRead_of_some {chunk : List Byte} (hp : s.port? p = some sp) (hf : sp.readChunk (.rtu p) chunk = some sp') :
    ∃ t, runMove (.serialRead p chunk) s = .next t ∧ t = { s with ports := t.ports, crc := t.crc, crcLoaded := t.crcLoaded } ∧
      SourceStep s t (.rtu p) id fun _ => sp' := by
  refine ⟨(s.setPort p sp').afterRtuParse chunk, ?_, ?_, sourceStep_afterRtuParse (sourceStep_setPort hp sp') chunk⟩
  · simp only [runMove, serialRead, State.onPort_of_some hp hf, Option.map_some, orWait]
  · unfold State.afterRtuParse
    split <;> rfl

end

/-- Settles O40: the three moves are the header read, the body read and the parse of the one connection, each by its cases. -/
theorem tcpReaderReadsAndParses : Obligations.TcpReaderReadsAndParses := by
  unfold Obligations.TcpReaderReadsAndParses
  intro s l n c hc
  exact ⟨fun h k hr h1 hk => connMove_of_some (f := Conn.readHeader k) rfl hc (Conn.readHeader_of_hdr hr h1 hk),
    fun h b need k hr h1 hk => connMove_of_some (f := Conn.readBody k) rfl hc (Conn.readBody_of_body hr h1 hk),
    fun h b hr => connMove_of_some (f := Conn.parse s.cfg (.tcp l n)) rfl hc (Conn.parse_of_full hr)⟩

/-- Settles O41, by induction on the reads: at each the buffers and the input left are the input there was. -/
theorem tcpReaderTakesExactlyOneFrame : Obligations.TcpReaderTakesExactlyOneFrame := by
  unfold Obligations.TcpReaderTakesExactlyOneFrame
  intro s t l n c c' reads head body hc hr h hc' hr'
  have hstart : c.TakenFrom c := by simp [Conn.TakenFrom, hr]
  obtain ⟨x, hx, htaken⟩ := takenFrom_readMoves reads h hc hstart
  cases hx.symm.trans hc'
  simp only [Conn.TakenFrom, hr'] at htaken
  obtain ⟨hinp, h7, hneed, hout, hopen⟩ := htaken
  exact ⟨hinp, by rw [List.length_append]; omega, hout, hopen⟩

/-- Settles O42: each move is a step of the one connection, or waits where that step is not enabled. -/
theorem tcpReaderEnds : Obligations.TcpReaderEnds := by
  unfold Obligations.TcpReaderEnds
  intro s l n c hc
  refine ⟨fun hread => ⟨fun hcl => ?_, fun hcl => ?_⟩, fun hread hinp heof => ?_, fun bytes heof hr => ?_, fun bytes h => ?_,
    connMove_of_some (f := Conn.hangUp) rfl hc rfl⟩
  · refine connMove_of_some (f := Conn.closeCheck s.close) rfl hc ?_
    rcases hread with ⟨h, hr⟩ | ⟨h, need, b, hr⟩ <;> simp only [Conn.closeCheck, hr, hcl, if_true] <;> rfl
  · refine orWait_onConn_of_none (f := Conn.closeCheck s.close) hc ?_
    rcases hread with ⟨h, hr⟩ | ⟨h, need, b, hr⟩ <;> simp [Conn.closeCheck, hr, hcl]
  · refine connMove_of_some (f := Conn.endOfInput) rfl hc ?_
    rcases hread with ⟨h, hr⟩ | ⟨h, need, b, hr, hneed⟩
    · simp only [Conn.endOfInput, hr, if_pos (And.intro hinp heof)]; rfl
    · simp only [Conn.endOfInput, hr, if_pos (And.intro hneed (And.intro hinp heof))]; rfl
  · exact connMove_of_some (f := Conn.receive bytes) rfl hc (if_pos ⟨heof, hr⟩)
  · refine orWait_onConn_of_none (f := Conn.receive bytes) hc (if_neg ?_)
    rintro ⟨heof, hr⟩
    rcases h with h | h
    · cases heof.symm.trans h
    · exact hr h

/-- Settles O43: each move is a step of the one port; a chunk that does not parse leaves nothing but the CRC register. -/
theorem rtuReaderSteps : Obligations.RtuReaderSteps := by
  unfold Obligations.RtuReaderSteps
  intro s p sp hp
  refine ⟨fun hr hl => portMove_of_some (f := SerialPort.startReader s.life) rfl hp (if_pos ⟨hr, hl⟩),
    fun hr hcl => portMove_of_some (f := SerialPort.checkClose s.close) rfl hp ?_,
    fun hr hcl => portMove_of_some (f := SerialPort.checkClose s.close) rfl hp ?_,
    fun chunk hr hl => serialRead_of_some hp (SerialPort.readChunk_of_block hr hl),
    fun hr => portMove_of_some (f := SerialPort.portError) rfl hp (if_pos hr)⟩
  · simp only [SerialPort.checkClose, hr, hcl, if_true]; rfl
  · simp [SerialPort.checkClose, hr, hcl]

end Sys2Proof.Machine
end

section
/-! O39, O56 (R217, R219, R220, R225, R228, R274, R276). The enqueue step of a reader and the ways a reader is closed by the close
signal; and by them every reader can be closed, one move each, so that `shutdown()` completes. -/

namespace Sys2Proof.Machine

open Spec

section

variable {s t : State} {k : SinkId} {req : Request}

/-! The two arms of an enqueue step. -/

theorem pushRequest_of_space (hr : s.parsedRequest k = some req) (hspace : s.queue.length < s.cfg.channelDepth) :
    pushRequest k s = some ((s.setQueue (s.queue ++ [req])).startWait k req) := by
  simp only [pushRequest, hr, if_pos hspace]

theorem pushRequest_of_full (hfull : ¬ s.queue.length < s.cfg.channelDepth) (k : SinkId) : pushRequest k s = none := by
  unfold pushRequest
  split
  · exact if_neg hfull
  · rfl

theorem abandonRequest_of_close (hr : s.parsedRequest k = some req) (hcl : s.close = true) :
    abandonRequest k s = some (s.closeSource k) :=
  if_pos ⟨by simp [hr], hcl⟩

theorem abandonRequest_of_not_close (hcl : s.close = false) (k : SinkId) : abandonRequest k s = none :=
  if_neg fun h => by simp [hcl] at h

theorem leaveWait_of_close (ha : s.awaited k = some req) (hcl : s.close = true) : leaveWait k s = some (s.closeSource k) :=
  if_pos ⟨by simp [ha], hcl⟩

theorem enqueueStep_isSome (hr : s.parsedRequest k = some req) (h : s.queue.length < s.cfg.channelDepth ∨ s.close = true)
    (first : Bool) : ∃ u, enqueueStep first k s = some u := by
  unfold enqueueStep
  rcases h with hspace | hcl
  · rw [pushRequest_of_space hr hspace]
    cases abandonRequest k s <;> exact ⟨_, rfl⟩
  · rw [abandonRequest_of_close hr hcl]
    cases pushRequest k s <;> exact ⟨_, rfl⟩

theorem pushed_startWait (s : State) (req : Request) :
    Pushed s ((s.setQueue (s.queue ++ [req])).startWait req.sink req) req := by
  have hsrc := sourceStep_startWait (s.setQueue (s.queue ++ [req])) req.sink req
  obtain ⟨ls, ps, h⟩ := State.startWait_eq req.sink req (s.setQueue (s.queue ++ [req]))
  exact ⟨by rw [h]; rfl, hsrc.conns, hsrc.ports, hsrc.accepts⟩

theorem abandoned_closeSource (s : State) (k : SinkId) : Abandoned s (s.closeSource k) k := by
  obtain ⟨ls, ps, h⟩ := s.closeSource_eq k
  exact ⟨by rw [h]; rfl, sourceStep_closeSource s k⟩

/-- What the command port shows and the draws counted are no part of what a push is. -/
theorem pushed_report (h : Pushed s t req) (r : Result) : Pushed s (t.countDraw.report r) req :=
  ⟨congrArg (fun u => u.countDraw.report r) h.1, h.2.conns, h.2.ports, h.2.accepts⟩

theorem abandoned_report (h : Abandoned s t k) (r : Result) : Abandoned s (t.countDraw.report r) k :=
  ⟨congrArg (fun u => u.countDraw.report r) h.1, h.2.conns, h.2.ports, h.2.accepts⟩

/-- ENQUEUE of a request that its reader holds completes where an arm is enabled, and by an arm that is (log entry 17). -/
theorem exec_enqueue_completes (hr : s.parsedRequest req.sink = some req)
    (h : s.queue.length < s.cfg.channelDepth ∨ s.close = true) :
    ∃ t, exec (.enqueue req) s = .next t ∧
      ((s.queue.length < s.cfg.channelDepth ∧ Pushed s t req) ∨ (s.close = true ∧ Abandoned s t req.sink)) := by
  obtain ⟨u, hu⟩ := enqueueStep_isSome hr h (Config.freeChoice s.draws)
  refine ⟨u.countDraw.report .none, by simp only [exec, execEnqueue, if_pos hr, hu], ?_⟩
  rcases enqueueStep_eq_some hu with hp | hp
  · obtain ⟨req', hr', hspace, rfl⟩ := pushRequest_eq_some hp
    cases hr.symm.trans hr'
    exact .inl ⟨hspace, pushed_report (pushed_startWait s req) .none⟩
  · obtain ⟨_, hcl, rfl⟩ := abandonRequest_eq_some hp
    exact .inr ⟨hcl, abandoned_report (abandoned_closeSource s req.sink) .none⟩

theorem exec_enqueue_waits (hfull : ¬ s.queue.length < s.cfg.channelDepth) (hcl : s.close = false) (req : Request) :
    exec (.enqueue req) s = .next (s.report .waiting) := by
  simp only [exec, execEnqueue, enqueueStep, pushRequest_of_full hfull, abandonRequest_of_not_close hcl, ite_self]

/-! Closing every reader. -/

/-- No reader of the sink id is left that is not closed. -/
def State.ClosedAt (s : State) : SinkId → Prop
  | .tcp l n => ∀ c, s.conn? l n = some c → c.rstate = .closed
  | .rtu p   => ∀ sp, s.port? p = some sp → sp.rstate = .closed

theorem State.readersClosed_of_closedAt (h : ∀ k, s.ClosedAt k) : s.readersClosed = true :=
  s.readersClosed_iff.2 ⟨fun l n => h (.tcp l n), fun p => h (.rtu p)⟩

theorem State.mem_sinks_or_closedAt (s : State) (k : SinkId) : k ∈ s.sinks ∨ s.ClosedAt k := by
  refine or_iff_not_imp_left.2 fun hk => ?_
  cases k with
  | tcp l n => intro c hc; simp [State.tcp_mem_sinks, hc] at hk
  | rtu p => intro sp hp; simp [State.rtu_mem_sinks, hp] at hk

theorem State.ClosedAt.closeSource {k' : SinkId} (h : k' = k ∨ s.ClosedAt k) : (s.closeSource k').ClosedAt k := by
  cases k with
  | tcp l n =>
    intro c hc
    rw [State.conn?_closeSource, Option.map_eq_some_iff] at hc
    obtain ⟨c, hc, rfl⟩ := hc
    split
    · rfl
    · rename_i hk; exact h.resolve_left hk c hc
  | rtu p =>
    intro sp hp
    rw [State.port?_closeSource, Option.map_eq_some_iff] at hp
    obtain ⟨sp, hp, rfl⟩ := hp
    split
    · rfl
    · rename_i hk; exact h.resolve_left hk sp hp

theorem closes_of_onConn {l n : Nat} {c : Conn} {f : Conn → Option Conn} (hc : s.conn? l n = some c) (hf : f c = some c.teardown) :
    orWait s (s.onConn l n f) = .next (s.closeSource (.tcp l n)) := by
  simp only [State.onConn_of_some hc hf, State.closeSource, hc, orWait]

theorem closes_of_onPort {p : Nat} {sp : SerialPort} {f : SerialPort → Option SerialPort} (hp : s.port? p = some sp)
    (hf : f sp = some sp.shut) : orWait s (s.onPort p f) = .next (s.closeSource (.rtu p)) := by
  simp only [State.onPort_of_some hp hf, State.closeSource, hp, orWait]

/-- With `close = 1` every reader that is not closed has a move that closes it; for a reader blocked in a read it is the host's return
with an error (R224). -/
theorem exists_closing_move (hcl : s.close = true) (h : ¬ s.ClosedAt k) : ∃ m, runMove m s = .next (s.closeSource k) := by
  cases k with
  | tcp l n =>
    simp only [State.ClosedAt, not_forall] at h
    obtain ⟨c, hc, hne⟩ := h
    cases hr : c.rstate with
    | hdr | body => exact ⟨.tcpCloseCheck l n, closes_of_onConn hc (by simp [Conn.closeCheck, hr, hcl])⟩
    | enq req =>
      have hreq : s.parsedRequest (.tcp l n) = some req := State.parsedRequest_tcp_iff.2 ⟨c, hc, hr⟩
      exact ⟨.abandon (.tcp l n), by simp only [runMove, abandonRequest_of_close hreq hcl, orWait]⟩
    | wait req =>
      have hreq : s.awaited (.tcp l n) = some req := State.awaited_tcp_iff.2 ⟨c, hc, hr⟩
      exact ⟨.leaveWait (.tcp l n), by simp only [runMove, leaveWait_of_close hreq hcl, orWait]⟩
    | closed => exact absurd hr hne
  | rtu p =>
    simp only [State.ClosedAt, not_forall] at h
    obtain ⟨sp, hp, hne⟩ := h
    cases hr : sp.rstate with
    | off => exact ⟨.rtuUnstarted p, closes_of_onPort hp (if_pos ⟨hr, hcl⟩)⟩
    | check => exact ⟨.rtuCheck p, closes_of_onPort hp (by simp [SerialPort.checkClose, hr, hcl])⟩
    | block => exact ⟨.serialError p, closes_of_onPort hp (if_pos hr)⟩
    | enq req =>
      have hreq : s.parsedRequest (.rtu p) = some req := State.parsedRequest_rtu_iff.2 ⟨sp, hp, hr⟩
      exact ⟨.abandon (.rtu p), by simp only [runMove, abandonRequest_of_close hreq hcl, orWait]⟩
    | wait req =>
      have hreq : s.awaited (.rtu p) = some req := State.awaited_rtu_iff.2 ⟨sp, hp, hr⟩
      exact ⟨.leaveWait (.rtu p), by simp only [runMove, leaveWait_of_close hreq hcl, orWait]⟩
    | closed => exact absurd hr hne

/-- Where at most the readers of `ks` are not closed, they can be closed one after another, and then `shutdown()` completes. -/
theorem shutdown_completes (ks : List SinkId) (hf : s.fault = none) (hl : s.life = .shutdown) (hcl : s.close = true)
    (h : ∀ k, k ∈ ks ∨ s.ClosedAt k) :
    ∃ ms t, runMoves ms s = .next t ∧ t.life = .stopped ∧ t.readersClosed = true ∧ t.fault = none := by
  induction ks generalizing s with
  | nil =>
    have hr : s.readersClosed = true := State.readersClosed_of_closedAt fun k => (h k).resolve_left List.not_mem_nil
    exact ⟨[.shutdownComplete], _, by simp only [runMoves, runMove, shutdownComplete, if_pos (And.intro hl hr), orWait], rfl,
      State.readersClosed_complete hr, hf⟩
  | cons k ks ih =>
    by_cases hk : s.ClosedAt k
    · refine ih hf hl hcl fun k' => ?_
      rcases h k' with hm | hc
      · exact (List.mem_cons.1 hm).elim (fun he => .inr (he ▸ hk)) .inl
      · exact .inr hc
    · obtain ⟨m, hm⟩ := exists_closing_move hcl hk
      obtain ⟨ms, t, ht, hstopped⟩ := ih (s := s.closeSource k) (by simpa using hf) (by simpa using hl) (by simpa using hcl)
        fun k' => by
          rcases h k' with hm | hc
          · exact (List.mem_cons.1 hm).elim (fun he => .inr (.closeSource (.inl he.symm))) .inl
          · exact .inr (.closeSource (.inr hc))
      exact ⟨m :: ms, t, by simp only [runMoves, hm, ht], hstopped⟩

end

/-- Settles O39: ENQUEUE and the two moves are the arms of one step, each by whether there is space and whether `close` is set. -/
theorem enqueueAndWaitEndSteps : Obligations.EnqueueAndWaitEndSteps := by
  unfold Obligations.EnqueueAndWaitEndSteps
  refine ⟨fun s req hr => ⟨fun hspace => ⟨?_, fun hcl => ?_⟩, fun hcl => ⟨?_, fun hfull => ?_⟩, fun hspace hcl => ?_,
      fun hfull hcl => ⟨exec_enqueue_waits hfull hcl req, ?_, ?_⟩⟩,
    fun s req hr => if_neg hr, fun s k req ha hcl => ⟨?_, abandoned_closeSource s k⟩, fun s k h => ?_,
    fun s p sp hp hr hcl => portMove_of_some (f := SerialPort.closeUnstarted s.close) rfl hp (if_pos ⟨hr, hcl⟩)⟩
  · exact ⟨_, by simp only [runMove, pushRequest_of_space hr hspace, orWait], pushed_startWait s req⟩
  · obtain ⟨t, ht, ⟨_, hp⟩ | ⟨hc, _⟩⟩ := exec_enqueue_completes hr (.inl hspace)
    · exact ⟨t, ht, hp⟩
    · cases hcl.symm.trans hc
  · exact ⟨_, by simp only [runMove, abandonRequest_of_close hr hcl, orWait], abandoned_closeSource s req.sink⟩
  · obtain ⟨t, ht, ⟨hspace, _⟩ | ⟨_, hd⟩⟩ := exec_enqueue_completes hr (.inr hcl)
    · exact absurd hspace hfull
    · exact ⟨t, ht, hd⟩
  · obtain ⟨t, ht, harm⟩ := exec_enqueue_completes hr (.inl hspace)
    exact ⟨t, ht, harm.imp And.right And.right⟩
  · simp only [runMove, pushRequest_of_full hfull, orWait]
  · simp only [runMove, abandonRequest_of_not_close hcl, orWait]
  · simp only [runMove, leaveWait_of_close ha hcl, orWait]
  · have hn : leaveWait k s = none := if_neg fun hw => by rcases h with h | h <;> simp [h] at hw
    simp only [runMove, hn, orWait]

/-- Settles O56: all readers are among those of the sources there are, which are closed one by one. -/
theorem shutdownCanComplete : Obligations.ShutdownCanComplete := by
  unfold Obligations.ShutdownCanComplete
  exact fun s hf hl hcl => shutdown_completes s.sinks hf hl hcl s.mem_sinks_or_closedAt

end Sys2Proof.Machine
end

section
/-! O46 (R9, R41, R214 to R216). The accept units. -/

namespace Sys2Proof.Machine

section

variable {s : State} {l : Nat} {li : Listener}

/-- The bound of R9 on connections allows one more. -/
theorem State.mayAccept_iff : s.mayAccept = true ↔ ∀ bound, s.cfg.maxConnections = some bound → s.openConnections < bound := by
  unfold State.mayAccept
  split <;> simp [*]

theorem acceptConnection_eq (hli : s.listeners[l]? = some li) :
    acceptConnection l s =
      if li.acc = .run ∧ s.mayAccept = true then some (s.setListener l { li with conns := li.conns ++ [Conn.fresh] }) else none := by
  simp only [acceptConnection, State.listener?, hli, Option.bind_some]

theorem runMove_accept_of_not (hli : s.listeners[l]? = some li) (h : ¬ (li.acc = .run ∧ s.mayAccept = true)) :
    runMove (.accept l) s = .next s := by
  simp only [runMove, acceptConnection_eq hli, if_neg h, orWait]

/-- A step of an accept unit, by what it makes of its control state. -/
theorem orWait_onAcc (hli : s.listeners[l]? = some li) (f : AccState → Option AccState) :
    orWait s (s.onAcc l f) =
      .next ((f li.acc).elim s fun a => { s with listeners := s.listeners.set l { li with acc := a } }) := by
  simp only [State.onAcc, State.listener?, hli, Option.bind_some]
  cases f li.acc <;> rfl

end

/-- Settles O46: each move of an accept unit is a case of its control state. -/
theorem acceptUnitSteps : Obligations.AcceptUnitSteps := by
  unfold Obligations.AcceptUnitSteps
  intro s l li hli
  refine ⟨fun hr hb => ?_, fun bound hb hfull => ?_, fun hr hl => ?_, fun hr => ⟨?_, ?_⟩, fun hr => ?_, fun hend => ?_⟩
  · simp only [runMove, acceptConnection_eq hli, if_pos (And.intro hr (State.mayAccept_iff.2 hb)), orWait]
    rfl
  · refine runMove_accept_of_not hli fun h => ?_
    have hlt := State.mayAccept_iff.1 h.2 bound hb
    omega
  · simp [runMove, accStart, orWait_onAcc hli, hr, hl]
  · simp [runMove, acceptError, orWait_onAcc hli, hr]
  · simp [runMove, acceptError, orWait_onAcc hli, hr]
  · simp [runMove, accResume, orWait_onAcc hli, hr]
  · have hoff : li.acc ≠ .off := by rcases hend with h | h <;> simp [h]
    have hrun : li.acc ≠ .run := by rcases hend with h | h <;> simp [h]
    have hpause : li.acc ≠ .pause := by rcases hend with h | h <;> simp [h]
    have haccept := runMove_accept_of_not hli fun h => hrun h.1
    refine List.forall_mem_cons.2 ⟨haccept, ?_⟩
    simp [runMove, accStart, acceptError, accResume, orWait_onAcc hli, hoff, hrun, hpause]

end Sys2Proof.Machine
end

section
/-! O30, O57, O58 (R136, R178, R179, R250, R254 to R258). Exceptions and block faults: a request that ends in an exception leaves the default
bank as it was; and of the cases of a step (`StoreStep`) those that set the fault register set nothing else, each for its own cause. -/

namespace Sys2Proof.Machine

open Spec

/-! The kind of a response. -/

/-- A response has the kind of its request (R179). -/
theorem response_tcp_iff (f : Frame) (r : HandlerResult) : (∃ y, response f r = .tcp y) ↔ ∃ x, f = .tcp x := by
  unfold response
  split <;> cases f <;> simp [Frame.header, Header.frame]

/-- The frames that cannot be serialized (R175). -/
theorem fits_eq_false_iff {q : Frame} : fits q = false ↔ (∃ x, q = .tcp x) ∧ 65533 < q.data.length := by
  cases q with
  | rtu f => simp [fits]
  | tcp f => simp [fits, Frame.data]

/-- HANDLE that raises the fault: a TCP request whose response is too long. -/
theorem handleRequest_eq_error {req : Request} {s : State} {f : BlockFault} (h : handleRequest req s = .error f) :
    (∃ x, req.frame = .tcp x) ∧ 65533 < (response req.frame (handling s req.frame)).data.length := by
  rw [handleRequest_eq] at h
  split at h
  · cases h
  · rename_i hfits
    obtain ⟨htcp, hlong⟩ := fits_eq_false_iff.1 (Bool.eq_false_of_not_eq_true hfits)
    exact ⟨(response_tcp_iff ..).1 htcp, hlong⟩

/-! A standard handler that ends in an exception has changed no entry of the default bank (R136). -/

/-- A handler that ends in an exception leaves the bank, if its answer does. -/
theorem checked_bank_of_exc {e : Byte} {bank : Bank} {r : HandlerResult} (hr : r.exc ≠ excSuccess → r.bank = bank)
    (h : (checked e bank r).exc ≠ excSuccess) : (checked e bank r).bank = bank := by
  by_cases he : e = excSuccess
  · subst he
    exact hr h
  · rw [checked, if_pos he]
    rfl

/-- The answer of a write that ends in an exception leaves the bank, if the bank call does. -/
theorem echoAnswer_bank_of_exc {data : List Byte} {bank : Bank} {r : Written Bank} (hr : r.exc ≠ excSuccess → r.bank = bank)
    (h : (echoAnswer data r).exc ≠ excSuccess) : (echoAnswer data r).bank = bank := by
  rw [echoAnswer_exc] at h
  rw [echoAnswer_bank, hr h]

theorem writeMultipleCoils_default_bank_of_exc {a : Arrays} {start : Word} {bits : List Bool}
    (h : (Bank.writeMultipleCoils (.default a) start bits).exc ≠ excSuccess) :
    (Bank.writeMultipleCoils (.default a) start bits).bank = .default a := by
  unfold Bank.writeMultipleCoils at h ⊢
  dsimp only at h ⊢
  split at h
  · rw [if_pos ‹_›]
  · exact absurd rfl h

theorem writeMultipleRegisters_default_bank_of_exc {a : Arrays} {start : Word} {words : List Word}
    (h : (Bank.writeMultipleRegisters (.default a) start words).exc ≠ excSuccess) :
    (Bank.writeMultipleRegisters (.default a) start words).bank = .default a := by
  unfold Bank.writeMultipleRegisters at h ⊢
  dsimp only at h ⊢
  split at h
  · rw [if_pos ‹_›]
  · exact absurd rfl h

/-- The reads leave the bank in any case, the single writes always succeed, and the multiple writes write the whole range or nothing. -/
theorem runHandler_default_bank_of_exc {p : Params} {a : Arrays} {h : HandlerId} {f : Frame} (hh : ∀ k, h ≠ .custom k)
    (he : (runHandler p h (.default a) f).exc ≠ excSuccess) : (runHandler p h (.default a) f).bank = .default a := by
  cases h with
  | stdReadCoils | stdReadDiscreteInputs => exact checked_bank_of_exc (fun _ => bitsAnswer_bank ..) he
  | stdReadHoldingRegisters | stdReadInputRegisters => exact checked_bank_of_exc (fun _ => wordsAnswer_bank ..) he
  | stdWriteSingleCoil | stdWriteSingleRegister =>
    exact checked_bank_of_exc (echoAnswer_bank_of_exc fun hw => absurd rfl hw) he
  | stdWriteMultipleCoils =>
    rw [runHandler_stdWriteMultipleCoils] at he ⊢
    exact checked_bank_of_exc (echoAnswer_bank_of_exc writeMultipleCoils_default_bank_of_exc) he
  | stdWriteMultipleRegisters =>
    exact checked_bank_of_exc (echoAnswer_bank_of_exc writeMultipleRegisters_default_bank_of_exc) he
  | custom k => exact absurd rfl (hh k)

/-! The request arm for a request that leaves the bank. -/

/-- The frame of the request arm: where the handler leaves the bank, only queue, dispatcher and CRC register change. -/
theorem taken_of_bank_eq {s : State} {req : Request} (rest : List Request) (hb : (handling s req.frame).bank = s.bank) :
    taken s req rest = { s with
      queue := rest
      dstate := .write (wire (response req.frame (handling s req.frame))) req.sink
      crc := (taken s req rest).crc
      crcLoaded := (taken s req rest).crcLoaded } := by
  unfold taken handled
  rw [hb]
  cases response req.frame (handling s req.frame) <;> rfl

/-- A TCP request leaves the CRC register. -/
theorem taken_crc_of_tcp {s : State} {req : Request} (rest : List Request) (h : ∃ x, req.frame = .tcp x) :
    (taken s req rest).crc = s.crc ∧ (taken s req rest).crcLoaded = s.crcLoaded := by
  obtain ⟨y, hy⟩ := (response_tcp_iff req.frame (handling s req.frame)).2 h
  simp only [taken, handled, hy, and_self]

/-- Settles O30: the exception response has one byte of Data, so it fits its framing and the request arm completes; and the handler left
the bank as it was. -/
theorem exceptionLeavesTheBlockAsItWas : Obligations.ExceptionLeavesTheBlockAsItWas := by
  unfold Obligations.ExceptionLeavesTheBlockAsItWas
  intro s a req rest h hd hq hbank hslot hstd e he
  have hhandling : handling s req.frame = runHandler s.cfg h s.bank req.frame := by rw [handling, hslot]
  have hresponse : response req.frame (handling s req.frame) =
      req.frame.header.frame (req.frame.function ||| 0x80#8) [e] := by rw [hhandling, response, if_neg he]
  have hkept : (handling s req.frame).bank = s.bank := by
    rw [hhandling, hbank]
    exact runHandler_default_bank_of_exc hstd (by rw [← hbank]; exact he)
  have hfits : fits (response req.frame (handling s req.frame)) = true := by
    rw [hresponse]
    exact fits_frame (by simp)
  refine ⟨_, runMove_dispRequest_of_fits hd hq hfits, ?_, taken_crc_of_tcp rest⟩
  rw [← hresponse]
  exact taken_of_bank_eq rest hkept

/-! Block faults. -/

/-- The causes of the block faults (R255, R256): the input consumed, and the state that it finds. -/
def FaultCause (i : Input) (s : State) (f : BlockFault) : Prop :=
  (f = .crcUninitialised ∧ s.crcLoaded = false ∧
    ∃ port bytes b, i = .message port bytes ∧ decode port bytes = .ok (.crcUpdate b)) ∨
  (f = .tcpResponseTooLong ∧
    ((∃ port bytes x, i = .message port bytes ∧ decode port bytes = .ok (.tcpSerialize x) ∧ 65533 < x.data.length) ∨
     ∃ req : Request, (∃ x, req.frame = .tcp x) ∧ 65533 < (response req.frame (handling s req.frame)).data.length ∧
      ((s.life = .config ∧ ∃ port bytes, i = .message port bytes ∧ decode port bytes = .ok (.handle req)) ∨
       (s.dstate = .idle ∧ (∃ rest, s.queue = req :: rest) ∧ ServedBy i req))))

/-- An input that sets the fault register has a cause to, and sets nothing else. -/
theorem StoreStep.raised {i : Input} {s t : State} {f : BlockFault} (h : StoreStep i s t) (hs : s.fault = none)
    (ht : t.fault = some f) : FaultCause i s f ∧ t = s.raise f := by
  have raise_eq : ∀ {g : BlockFault}, t = s.raise g → g = f := fun hg => Option.some.inj (by rw [← ht, hg]; rfl)
  have unraised : t.fault ≠ s.fault := by simp [hs, ht]
  cases h with
  | quiet h => exact absurd h.fault unraised
  | before _ _ _ _ hx _ _ _ => exact absurd hx unraised
  | takes _ _ _ _ _ _ _ _ hr hg => exact absurd (by rw [hg, handleRequest_state hr]; rfl) unraised
  | fnSet _ _ _ _ _ _ _ hg | shutdown _ _ _ _ _ hg => exact absurd (by rw [hg]; rfl) unraised
  | stale port bytes b hi hd hl hg =>
    obtain rfl := raise_eq hg
    exact ⟨.inl ⟨rfl, hl, port, bytes, b, hi, hd⟩, hg⟩
  | long port bytes x hi hd hx hg =>
    obtain rfl := raise_eq hg
    exact ⟨.inr ⟨rfl, .inl ⟨port, bytes, x, hi, hd, hx⟩⟩, hg⟩
  | handle port bytes req hi hd hl hr hg =>
    obtain rfl := raise_eq hg
    obtain ⟨htcp, hlong⟩ := handleRequest_eq_error hr
    exact ⟨.inr ⟨rfl, .inr ⟨req, htcp, hlong, .inl ⟨hl, port, bytes, hi, hd⟩⟩⟩, hg⟩
  | pop req rest hi hd hq hr hg =>
    obtain rfl := raise_eq hg
    obtain ⟨htcp, hlong⟩ := handleRequest_eq_error hr
    exact ⟨.inr ⟨rfl, .inr ⟨req, htcp, hlong, .inr ⟨hd, ⟨rest, hq⟩, hi⟩⟩⟩, hg⟩

/-- The same of a step: it has besides consumed its input. -/
theorem step_raised {s t : State} {f : BlockFault} (h : step s = .next t) (ht : t.fault = some f) :
    FaultCause (nextInput s).1 s f ∧ t = (nextInput s).2.raise f := by
  obtain ⟨hcause, hraise⟩ := (step_store h).raised ((nextInput_store s).fault.trans (step_eq_next h).1) ht
  refine ⟨?_, hraise⟩
  obtain ⟨is, d, hn⟩ := nextInput_state s
  rw [hn] at hcause
  exact hcause

/-- Settles O57: a step that raises a fault sets the fault register in the state its input is consumed from; and a faulted state halts. -/
theorem faultsArePreciseAndFinal : Obligations.FaultsArePreciseAndFinal := by
  unfold Obligations.FaultsArePreciseAndFinal
  refine ⟨fun s t f h ht => ?_, fun s f hf => by simp only [step, hf]⟩
  obtain ⟨is, d, hn⟩ := nextInput_state s
  rw [(step_raised h ht).2, hn]
  rfl

/-- Settles O58: the causes are those of the faulting cases of `StoreStep`. -/
theorem onlyTheListedCausesRaiseFaults : Obligations.OnlyTheListedCausesRaiseFaults := by
  unfold Obligations.OnlyTheListedCausesRaiseFaults
  exact fun s t f h ht => (step_raised h ht).1

end Sys2Proof.Machine
end

section
/-! O53, O54 (R245, R271, R276). The lifecycle calls and the completion of `shutdown()`. -/

namespace Sys2Proof.Machine

/-- Settles O53: each call answers by whether the lifecycle state is `CONFIG`. -/
theorem lifecycleCalls : Obligations.LifecycleCalls := by
  unfold Obligations.LifecycleCalls
  exact ⟨fun s hl => ⟨if_pos hl, if_pos hl, if_pos hl, if_pos hl, if_pos hl⟩, fun s ok hl => ⟨if_neg hl, if_neg hl, if_neg hl⟩⟩

/-- Closing a listener leaves a returned accept error as it is (R276 (2)). -/
theorem AccState.close_eq (a : AccState) : a.close = if a = .error then .error else .closed := by
  cases a <;> rfl

/-- Every reader is closed, as the statements say it: connection by connection and port by port. -/
theorem State.readersClosed_iff_forall_mem {s : State} :
    s.readersClosed = true ↔
      (∀ li ∈ s.listeners, ∀ c ∈ li.conns, c.rstate = .closed) ∧ ∀ sp ∈ s.ports, sp.rstate = .closed := by
  simp only [State.readersClosed, Bool.and_eq_true, List.all_eq_true, decide_eq_true_eq]

theorem shutdownComplete_of_closed {s : State} (hl : s.life = .shutdown) (hr : s.readersClosed = true) :
    shutdownComplete s = some { s with
      life := .stopped
      listeners := s.listeners.map fun li => { li with acc := if li.acc = .error then .error else .closed }
      ports := s.ports.map fun sp => { sp with isOpen := false } } := by
  simp only [shutdownComplete, if_pos (And.intro hl hr), AccState.close_eq]
  rfl

/-- Settles O54: the call by the lifecycle state, its completion by that state and whether every reader is closed. -/
theorem shutdownCallAndCompletion : Obligations.ShutdownCallAndCompletion := by
  unfold Obligations.ShutdownCallAndCompletion
  refine ⟨fun s hl => if_pos hl, fun s hl => if_neg hl, fun s hl hconns hports => ?_, fun s hopen => ?_⟩
  · have hr : s.readersClosed = true := State.readersClosed_iff_forall_mem.2 ⟨hconns, hports⟩
    simp only [runMove, shutdownComplete_of_closed hl hr, orWait]
  · have hn : shutdownComplete s = none := if_neg fun ⟨hl, hr⟩ => by
      obtain ⟨hconns, hports⟩ := State.readersClosed_iff_forall_mem.1 hr
      obtain hlife | ⟨li, hli, c, hc, hne⟩ | ⟨sp, hsp, hne⟩ := hopen
      · exact hlife hl
      · exact hne (hconns li hli c hc)
      · exact hne (hports sp hsp)
    simp only [runMove, hn, orWait]

end Sys2Proof.Machine
end
